-- ==== Sys2Proof/Word.lean ====
section
/-! DEFINITION. The value types of the block: operation word, pin level, ShiftCode and HistoryRegister.
Every value is unsigned and bit 0 is the least significant bit (spec/00_scope.md R10). TIME is Nat itself: a number of ticks,
unbounded, without wrap (spec/00_scope.md R9, decision D8; log entry 14). -/

namespace Sys2Proof

/-- An operation word OPW: 4 bits (spec/30_encoding.md R71). -/
abbrev Opw := BitVec 4

/-- A pin level: 1 is high, 0 is low (spec/20_memory.md R54). -/
abbrev Level := BitVec 1

/-- A ShiftCode: SC_W = 4 bits (spec/10_state.md R21, R33). -/
abbrev ShiftCode := BitVec 4

/-- A HistoryRegister value: HR_W = 16 bits (spec/10_state.md R22, R33). -/
abbrev History := BitVec 16

/-- An external handler's identity. The spec gives a handler no structure (spec/43_dispatch.md R160; log entry 6). -/
abbrev HandlerId := Nat

end Sys2Proof
end

