-- ==== Sys2Proof/Config.lean ====
section
/-! DEFINITION. The configuration of the block (spec/00_scope.md R9, spec/10_state.md R34): what CONSTRUCT fixes and
no other operation changes. A field's default is the spec's reference value. -/

namespace Sys2Proof

/-- TICKS_PER_UNIT, reference value 1000 (spec/00_scope.md R9, decision D9). -/
def Config.refTicksPerUnit : Nat := 1000

/-- PUSH_TIME in ticks: the source's 0.4 time units at a given number of ticks per unit (R9, decision D9).
DESIGN CHOICE, log entry 21: at a resolution where 0.4 units is no whole number of ticks it rounds down. -/
def Config.ticksOfPushTime (ticksPerUnit : Nat := Config.refTicksPerUnit) : Nat :=
  4 * ticksPerUnit / 10

/-- The construction-time configuration (spec/10_state.md R34). -/
structure Config where
  /-- PUSH_PIN, an opaque identifier (spec/20_memory.md R53). -/
  pushPin : Nat := 22
  /-- CLK_PIN, an opaque identifier. -/
  clkPin : Nat := 17
  /-- DT_PIN, an opaque identifier. -/
  dtPin : Nat := 27
  /-- PUSH_TIME_TICKS, the debounce threshold in ticks. -/
  pushTimeTicks : Nat := Config.ticksOfPushTime
  /-- PRESSED_LEVEL, the push level that means pressed (decision D5). -/
  pressedLevel : Level := 0
  /-- CLK_FALLING_DUP: the extra clk falling-edge registration exists (decision D11). -/
  clkFallingDup : Bool := false
  /-- The binding of on_push. DESIGN CHOICE, log entry 6: the number is a name and nothing reads it as a number. -/
  onPush : HandlerId := 0
  /-- The binding of on_cw. -/
  onCw : HandlerId := 1
  /-- The binding of on_ccw. -/
  onCcw : HandlerId := 2
deriving DecidableEq, Repr

/-- Every parameter at its reference value (R9). -/
def Config.reference : Config := {}

end Sys2Proof
end

