-- ==== Sys2Proof/Syntax.lean ====
section
/-! DEFINITION. The operations of the block, one constructor per row of spec/opcode_table.json, and the words for what
surrounds them: operation classes, pins, edges and the notification sources. -/

namespace Sys2Proof

/-- The seven operations (spec/30_encoding.md R74). No operation has an operand field (R77): what it reads is the sample
bundle, which is an input of the step (R76). -/
inductive Instr where
  /-- CONSTRUCT, OPW 0000 (R240). -/
  | construct
  /-- TEARDOWN, OPW 0001 (R167). -/
  | teardown
  /-- ROT.CLKF, OPW 0100 (R110). -/
  | rotClkf
  /-- ROT.CLKE, OPW 0101 (R111). -/
  | rotClke
  /-- ROT.DTE, OPW 0110 (R112). -/
  | rotDte
  /-- PUSH.F, OPW 1000 (R145). -/
  | pushF
  /-- HRET, OPW 1100 (R166). -/
  | hret
deriving DecidableEq, Repr

/-- The operation classes, the values of the field CLS (R72). -/
inductive OpClass where
  | life
  | rot
  | push
  | host
deriving DecidableEq, Repr

/-- The three input pins (spec/20_memory.md R53), named by their part: the identifiers are configuration. -/
inductive Pin where
  | push
  | clk
  | dt
deriving DecidableEq, Repr

/-- A transition of a pin's level. -/
inductive Edge where
  | rising
  | falling
deriving DecidableEq, Repr

/-- The edge kinds a callback registration names (spec/60_exceptions.md R210). -/
inductive EdgeKind where
  | falling
  | either
deriving DecidableEq, Repr

/-- The notification sources, one per row of the table of spec/60_exceptions.md R210. -/
inductive Source where
  | pushFalling
  | clkFalling
  | clkEither
  | dtEither
deriving DecidableEq, Repr

end Sys2Proof
end

