-- ==== Sys2Proof/Machine/State.lean ====
section
/-! DEFINITION. The state: the nine registers of spec/10_state.md R20, the configuration of R34, and the environment's side
(sample port, pending notifications, what is still to be presented). Plain data throughout. -/

namespace Sys2Proof.Machine

/-- The five FSM states (spec/10_state.md R24). -/
inductive Fsm where
  | off
  | idle
  | busy
  | down
  | failed
deriving DecidableEq, Repr

/-- The events a handler is called for (spec/30_encoding.md R78). The outcome NONE is never stored (R78), so it is no
constructor here: an outcome is an `Option Event`. -/
inductive Event where
  | cw
  | ccw
  | push
deriving DecidableEq, Repr

/-- The fault kinds (spec/60_exceptions.md R200). They are bits of FLT, not stops of the machine. -/
inductive FaultKind where
  | config
  | protocol
deriving DecidableEq, Repr

/-- The registers that hold a value exactly while FSM is IDLE or BUSY (spec/10_state.md R36). -/
structure Regs where
  /-- SC, the ShiftCode (R21). -/
  sc : ShiftCode
  /-- HR, the HistoryRegister (R22). -/
  hr : History
  /-- TS, the push timestamp, of type TIME (R23). -/
  ts : Nat
  /-- INITCLK, the diagnostic clk level of construction (R28). -/
  initclk : Level
deriving DecidableEq, Repr

/-- FSM together with the registers whose having a value depends on it: SC, HR, TS and INITCLK hold a value exactly in IDLE
and BUSY, PEV exactly in BUSY (spec/10_state.md R25, R36; log entry 3). -/
inductive Phase where
  /-- OFF: not constructed. -/
  | off
  /-- IDLE: running, ready for an operation. -/
  | idle (r : Regs)
  /-- BUSY: the event `pev` is being handled. -/
  | busy (r : Regs) (pev : Event)
  /-- DOWN: torn down. -/
  | down
  /-- FAILED: construction failed. -/
  | failed
deriving DecidableEq, Repr

/-- The sample bundle: the external values an operation reads when it executes (spec/30_encoding.md R76). -/
structure Bundle where
  /-- P, the level of PUSH_PIN. -/
  p : Level
  /-- C, the level of CLK_PIN. -/
  c : Level
  /-- D, the level of DT_PIN. -/
  d : Level
  /-- T, the time `now`, of type TIME. -/
  t : Nat
  /-- K: pin mode and pull configuration succeeded. -/
  k : Bool
deriving DecidableEq, Repr

/-- One turn of the environment (log entry 1). -/
inductive Turn where
  /-- Present an operation word with the bundle it reads (spec/30_encoding.md R70). -/
  | present (w : Opw) (b : Bundle)
  /-- The level of a pin changes: one notification becomes pending per registration watching it
  (spec/60_exceptions.md R211). -/
  | edge (pin : Pin) (e : Edge)
  /-- The pending notification at place `k` is taken up, with a bundle sampled now (spec/43_dispatch.md R165). -/
  | run (k : Nat) (b : Bundle)
  /-- The supervisor sets the configuration it will construct with (spec/10_state.md R34). -/
  | offer (c : Config)
deriving DecidableEq, Repr

/-- The state. -/
structure State where
  /-- FSM, with SC, HR, TS, INITCLK and PEV while they hold a value (R21 to R25, R28). -/
  phase : Phase
  /-- FLT: bit 0 CONFIG, bit 1 PROTOCOL, sticky (R26). -/
  flt : BitVec 2
  /-- REFUSED, sticky (R27). -/
  refused : Bool
  /-- EVH, every dispatched event, oldest first (R29). -/
  evh : List Event
  /-- The configuration in force, fixed by the last successful CONSTRUCT (R34; log entry 5). -/
  cfg : Config
  /-- The environment: the configuration the next CONSTRUCT fixes (log entry 5). -/
  offer : Config
  /-- The environment: the sample bundle of the executing operation (R35, R76; log entry 2). -/
  port : Bundle
  /-- The environment: notifications pending or held, in no binding order (spec/60_exceptions.md R211; log entry 7). -/
  pending : List Source
  /-- The environment: what it does from now on, one turn a step (spec/43_dispatch.md R170; log entry 1). -/
  input : List Turn
deriving DecidableEq, Repr

/-- Why the machine stops with a fault: it never does. A fault of the spec sets a sticky bit of FLT and the block goes on
(spec/60_exceptions.md R200, R207), so no constructor is needed and none is raised; safe (log entry 22). -/
inductive Fault where
deriving DecidableEq, Repr

/-- Why an operation has no meaning in the model. -/
inductive Refusal where
  /-- Raised only by an arm of `exec` for an operation without a meaning yet. No arm raises it: every operation has its
  meaning. Safe. -/
  | notModelled (mnemonic : String)
deriving DecidableEq, Repr

/-- The sample port before anything is presented. DESIGN CHOICE, log entry 2: the spec gives no value, every operation brings
its own bundle, and no statement rests on this one. -/
def Bundle.zero : Bundle := { p := 0, c := 0, d := 0, t := 0, k := false }

/-- The state at power-on, before the first CONSTRUCT (spec/10_state.md R37; log entry 4): FSM = OFF, FLT = 0b00,
REFUSED = 0, EVH empty, every other register without value. The configuration is the reference one (R9) and the environment
has presented nothing. -/
def State.reset : State where
  phase := .off
  flt := 0b00#2
  refused := false
  evh := []
  cfg := Config.reference
  offer := Config.reference
  port := Bundle.zero
  pending := []
  input := []

end Sys2Proof.Machine
end

