-- ==== Sys2Proof/Machine/Flags.lean ====
section
/-! DEFINITION. Status: how the registers of a state are read, the fault bits and the refusal mark, the event codes, and the
block's outputs. The block has no condition codes (spec/10_state.md R31). -/

namespace Sys2Proof.Machine

/-- FSM (spec/10_state.md R24). -/
def State.fsm (s : State) : Fsm :=
  match s.phase with
  | .off => .off
  | .idle _ => .idle
  | .busy _ _ => .busy
  | .down => .down
  | .failed => .failed

/-- SC, HR, TS and INITCLK where they hold a value (R36). -/
def State.regs (s : State) : Option Regs :=
  match s.phase with
  | .idle r => some r
  | .busy r _ => some r
  | .off => none
  | .down => none
  | .failed => none

/-- SC, where it holds a value (R21, R36). -/
def State.sc (s : State) : Option ShiftCode := s.regs.map Regs.sc

/-- HR, where it holds a value (R22, R36). -/
def State.hr (s : State) : Option History := s.regs.map Regs.hr

/-- TS, where it holds a value (R23, R36). -/
def State.ts (s : State) : Option Nat := s.regs.map Regs.ts

/-- INITCLK, where it holds a value (R28, R36). -/
def State.initclk (s : State) : Option Level := s.regs.map Regs.initclk

/-- PEV, which holds a value only while FSM = BUSY (R25). -/
def State.pev (s : State) : Option Event :=
  match s.phase with
  | .busy _ e => some e
  | .off => none
  | .idle _ => none
  | .down => none
  | .failed => none

/-- The FSM encoding on the `state` output (R24). -/
def Fsm.bits : Fsm → BitVec 3
  | .off => 0b000#3
  | .idle => 0b001#3
  | .busy => 0b010#3
  | .down => 0b011#3
  | .failed => 0b100#3

/-- The 2-bit code of an outcome, `none` being NONE (spec/30_encoding.md R78). -/
def eventCode : Option Event → BitVec 2
  | none => 0b00#2
  | some .cw => 0b01#2
  | some .ccw => 0b10#2
  | some .push => 0b11#2

/-- The FLT bit of a fault kind: CONFIG is FLT[0], PROTOCOL is FLT[1] (spec/60_exceptions.md R200). -/
def FaultKind.mask : FaultKind → BitVec 2
  | .config => 0b01#2
  | .protocol => 0b10#2

/-- FLT with the bit of a fault kind set; no bit is ever cleared (R26, R200). -/
def setFault (k : FaultKind) (flt : BitVec 2) : BitVec 2 := flt ||| k.mask

/-- Output evt_code: PEV when FSM = BUSY, otherwise 0b00 (spec/30_encoding.md R79). -/
def State.evtCodeOut (s : State) : BitVec 2 := eventCode s.pev

/-- Output busy (R79). -/
def State.busyOut (s : State) : BitVec 1 := if s.fsm = .busy then 1 else 0

/-- Output state (R79). -/
def State.stateOut (s : State) : BitVec 3 := s.fsm.bits

/-- Output flt (R79). -/
def State.fltOut (s : State) : BitVec 2 := s.flt

/-- Output refused (R79). -/
def State.refusedOut (s : State) : BitVec 1 := if s.refused then 1 else 0

end Sys2Proof.Machine
end

