-- ==== Sys2Proof/Machine/Operands.lean ====
section
/-! DEFINITION. The operands of the operations: what they read of the sample bundle (spec/30_encoding.md R76, R77). -/

namespace Sys2Proof.Machine

/-- ReadPin: the level the bundle carries for a pin (spec/00_scope.md R11). It has no side effect (spec/20_memory.md R59). -/
def readPin (b : Bundle) : Pin → Level
  | .push => b.p
  | .clk => b.c
  | .dt => b.d

/-- Now(): the time sample of the operation, the one value every step of it uses (R11, spec/42_push.md R140). -/
def now (b : Bundle) : Nat := b.t

/-- The pin pair {C, D}: clk is bit 1, dt is bit 0 (R77, spec/20_memory.md R54). -/
def pinPair (b : Bundle) : BitVec 2 := readPin b .clk ++ readPin b .dt

/-- The push pin reads pressed: its level is PRESSED_LEVEL (spec/41_rotation.md R100, spec/42_push.md R142). -/
def isPressed (cfg : Config) (b : Bundle) : Bool := readPin b .push == cfg.pressedLevel

/-- The identifier a pin has in a configuration (spec/20_memory.md R53). No rule interprets it. -/
def pinId (cfg : Config) : Pin → Nat
  | .push => cfg.pushPin
  | .clk => cfg.clkPin
  | .dt => cfg.dtPin

end Sys2Proof.Machine
end

