-- ==== Sys2Proof/Machine/Ops.lean ====
section
/-! DEFINITION. The operations the meanings share: raising a fault, refusing a word, entering a handler and returning from
it, holding a notification, and the notification sources with the GPIO environment's side of them. -/

namespace Sys2Proof.Machine

/-- raise Fault(k): sets one sticky bit and changes nothing else (spec/60_exceptions.md R200). -/
def raise (k : FaultKind) (s : State) : State := { s with flt := setFault k s.flt }

/-- refuse: sets the sticky REFUSED mark and changes nothing else (spec/60_exceptions.md R203). -/
def refuse (s : State) : State := { s with refused := true }

/-- Emit(e), the block's one entry into a handler: PEV is the event, EVH gets it at its end, FSM is BUSY
(spec/43_dispatch.md R162, spec/60_exceptions.md R214). `r` are the registers as the operation leaves them: entry is precise.
-/
def emit (e : Event) (r : Regs) (s : State) : State :=
  { s with phase := .busy r e, evh := s.evh ++ [e] }

/-- The return from a handler: FSM is IDLE and PEV has no value; nothing else is restored
(spec/43_dispatch.md R166, spec/60_exceptions.md R215). -/
def handlerReturn (r : Regs) (s : State) : State := { s with phase := .idle r }

/-- What a notification's outcome does: NONE leaves FSM IDLE, an event is dispatched in the same step
(spec/43_dispatch.md R164). -/
def dispatch (outcome : Option Event) (r : Regs) (s : State) : State :=
  match outcome with
  | none => { s with phase := .idle r }
  | some e => emit e r s

/-- The handler an event calls (spec/30_encoding.md R78). -/
def handlerFor (cfg : Config) : Event → HandlerId
  | .cw => cfg.onCw
  | .ccw => cfg.onCcw
  | .push => cfg.onPush

/-- The handler whose return the block waits for, if there is one: entered by Emit, ended by HRET (spec/00_scope.md R8).
DESIGN CHOICE, log entry 26: TEARDOWN in BUSY ends it in this view. The spec says that the handler itself is not stopped then
and that its later HRET is dropped (spec/43_dispatch.md R167), and gives the block nothing that still names it. -/
def State.runningHandler (s : State) : Option HandlerId := s.pev.map (handlerFor s.cfg)

/-- hold: the notification has no step now, reads no sample, changes no register, and waits with the environment's pending
ones (spec/43_dispatch.md R165; log entry 7). -/
def hold (src : Source) (s : State) : State := { s with pending := s.pending ++ [src] }

/-- A notification in each FSM state: the columns ROT and PUSH.F of spec/43_dispatch.md R161. `f` is SampleRotation or
DebounceGate; it runs in IDLE and the same step dispatches its outcome (R164). -/
def notify (src : Source) (f : Config → Bundle → Regs → Regs × Option Event) (s : State) : State :=
  match s.phase with
  | .idle r => dispatch (f s.cfg s.port r).2 (f s.cfg s.port r).1 s
  | .busy _ _ => hold src s
  | .down => s
  | .off => raise .protocol s
  | .failed => raise .protocol s

/-- The pin a source watches (spec/60_exceptions.md R210). -/
def Source.pin : Source → Pin
  | .pushFalling => .push
  | .clkFalling => .clk
  | .clkEither => .clk
  | .dtEither => .dt

/-- The edge kind a source is registered for (R210). -/
def Source.edgeKind : Source → EdgeKind
  | .pushFalling => .falling
  | .clkFalling => .falling
  | .clkEither => .either
  | .dtEither => .either

/-- The operation a source produces (R210). -/
def Source.op : Source → Instr
  | .pushFalling => .pushF
  | .clkFalling => .rotClkf
  | .clkEither => .rotClke
  | .dtEither => .rotDte

/-- The sources in the order of the table of R210. -/
def allSources : List Source := [.pushFalling, .clkFalling, .clkEither, .dtEither]

/-- A configuration has a source: every one but clk falling, which needs CLK_FALLING_DUP (R210). -/
def Config.hasSource (cfg : Config) : Source → Bool
  | .pushFalling => true
  | .clkFalling => cfg.clkFallingDup
  | .clkEither => true
  | .dtEither => true

/-- A source is registered: CONSTRUCT registers the configuration's sources and TEARDOWN unregisters them
(spec/60_exceptions.md R211, spec/70_reset_and_hazards.md R242). -/
def registered (s : State) (src : Source) : Bool :=
  match s.phase with
  | .idle _ => Config.hasSource s.cfg src
  | .busy _ _ => Config.hasSource s.cfg src
  | .off => false
  | .down => false
  | .failed => false

/-- A registration for an edge kind fires on an edge (R210). -/
def EdgeKind.fires : EdgeKind → Edge → Bool
  | .falling, .falling => true
  | .falling, .rising => false
  | .either, _ => true

/-- A source watches an edge of a pin (R210). -/
def Source.watches (src : Source) (pin : Pin) (e : Edge) : Bool :=
  decide (Source.pin src = pin) && EdgeKind.fires (Source.edgeKind src) e

/-- An edge of a pin: one notification becomes pending per registration watching it (R211; log entry 9). -/
def pinEdge (pin : Pin) (e : Edge) (s : State) : State :=
  { s with pending := s.pending ++ allSources.filter (fun src => registered s src && Source.watches src pin e) }

end Sys2Proof.Machine
end

