-- ==== Sys2Proof/Machine/Lifecycle.lean ====
section
/-! DEFINITION. The lifecycle and host operations: CONSTRUCT (spec/70_reset_and_hazards.md R240), TEARDOWN and HRET
(spec/43_dispatch.md R167, R166). -/

namespace Sys2Proof.Machine

/-- The registers a successful CONSTRUCT leaves (spec/10_state.md R37). -/
def constructedRegs (b : Bundle) : Regs :=
  { sc := 0b0000#4, hr := 0x0000#16, ts := now b, initclk := readPin b .clk }

/-- Building the block from OFF or DOWN: pin configuration failure is the CONFIG fault and FAILED; otherwise the configuration
is fixed, the handlers bound, the registers set, the sources registered and FSM is IDLE, in one step (R240, R242). -/
def build (s : State) : State :=
  if s.port.k then { s with phase := .idle (constructedRegs s.port), cfg := s.offer }
  else { raise .config s with phase := .failed }

/-- CONSTRUCT (R240). -/
def execConstruct (s : State) : Host.Outcome State Fault Refusal :=
  match s.phase with
  | .off => .next (build s)
  | .down => .next (build s)
  | .idle _ => .next (raise .protocol s)
  | .busy _ _ => .next (raise .protocol s)
  | .failed => .next (raise .protocol s)

/-- Taking the block down: FSM is DOWN, the registers are discarded, and the waiting notifications are dropped
(spec/43_dispatch.md R165, R167, R168; log entry 7). -/
def takeDown (s : State) : State := { s with phase := .down, pending := [] }

/-- TEARDOWN (R167). -/
def execTeardown (s : State) : Host.Outcome State Fault Refusal :=
  match s.phase with
  | .idle _ => .next (takeDown s)
  | .busy _ _ => .next (takeDown s)
  | .off => .next s
  | .down => .next s
  | .failed => .next s

/-- HRET (R166). -/
def execHret (s : State) : Host.Outcome State Fault Refusal :=
  match s.phase with
  | .busy r _ => .next (handlerReturn r s)
  | .down => .next s
  | .off => .next (raise .protocol s)
  | .idle _ => .next (raise .protocol s)
  | .failed => .next (raise .protocol s)

end Sys2Proof.Machine
end

