-- ==== Sys2Proof/Machine/Push.lean ====
section
/-! DEFINITION. The push family: DebounceGate and PUSH.F (spec/42_push.md). -/

namespace Sys2Proof.Machine

/-- The elapsed time, an integer: a time sample earlier than TS gives a negative one (R141). -/
def elapsed (t ts : Nat) : Int := (t : Int) - (ts : Int)

/-- The accept test: strictly more than PUSH_TIME_TICKS elapsed and the pin reads pressed (R142). -/
def accepts (cfg : Config) (b : Bundle) (ts : Nat) : Bool :=
  decide (elapsed (now b) ts > (cfg.pushTimeTicks : Int)) && isPressed cfg b

/-- DebounceGate (R144): the outcome from the old TS, then TS is written whatever the outcome (R143). -/
def debounceGate (cfg : Config) (b : Bundle) (r : Regs) : Regs × Option Event :=
  ({ r with ts := now b }, if accepts cfg b r.ts then some .push else none)

/-- PUSH.F (R145). -/
def execPushF (s : State) : Host.Outcome State Fault Refusal := .next (notify .pushFalling debounceGate s)

end Sys2Proof.Machine
end

