-- ==== Sys2Proof/Machine/Rom.lean ====
section
/-! DEFINITION. The constants of the block: the validity table and the two terminal patterns (spec/10_state.md R33). -/

namespace Sys2Proof.Machine

/-- VT, the validity table, transcribed entry 0 first (spec/20_memory.md R52). -/
def VT : List (BitVec 1) := [0, 1, 1, 0, 1, 0, 0, 1, 1, 0, 0, 1, 0, 1, 1, 0]

/-- VT[i], a read of the validity ROM (spec/20_memory.md R51). The index is 4 bits wide, so it never leaves the table (R57)
and the default is never read. -/
def readVT (i : ShiftCode) : BitVec 1 := VT.getD i.toNat 0

/-- CW_PATTERN, the clockwise-complete low byte (R33). -/
def cwPattern : BitVec 8 := 0x2B#8

/-- CCW_PATTERN, the counter-clockwise-complete low byte (R33). -/
def ccwPattern : BitVec 8 := 0x17#8

end Sys2Proof.Machine
end

