-- ==== Sys2Proof/Machine/Rotation.lean ====
section
/-! DEFINITION. The rotation family: SampleRotation and ROT.CLKF, ROT.CLKE, ROT.DTE (spec/41_rotation.md). -/

namespace Sys2Proof.Machine

/-- The shift step: SC shifted left by one pin pair, the sampled pair in its low bits (R101). -/
def shiftCode (sc : ShiftCode) (pair : BitVec 2) : ShiftCode :=
  (((sc <<< 2) &&& 0xF#4) ||| pair.zeroExtend 4) &&& 0xF#4

/-- The history step: HR shifted left by one code, truncated to 16 bits, the code in its low bits (R103). -/
def pushHistory (hr : History) (sc : ShiftCode) : History := (hr <<< 4) ||| sc.zeroExtend 16

/-- The terminal match on the low byte of HR (R104). -/
def terminalMatch (hr : History) : Option Event :=
  if hr.extractLsb' 0 8 = cwPattern then some .cw
  else if hr.extractLsb' 0 8 = ccwPattern then some .ccw
  else none

/-- SampleRotation after the suppression test: the shift, validity, history and terminal steps (R101 to R104). -/
def decodeStep (pair : BitVec 2) (r : Regs) : Regs × Option Event :=
  let sc := shiftCode r.sc pair
  if readVT sc = 0#1 then ({ r with sc := sc }, none)
  else
    let hr := pushHistory r.hr sc
    ({ r with sc := sc, hr := hr }, terminalMatch hr)

/-- SampleRotation (R105). The suppression test comes first: pressed, it writes TS and reads neither C nor D (R100). -/
def sampleRotation (cfg : Config) (b : Bundle) (r : Regs) : Regs × Option Event :=
  if isPressed cfg b then ({ r with ts := now b }, none) else decodeStep (pinPair b) r

/-- ROT.CLKF (R110): without its registration a PROTOCOL fault in every FSM state (spec/30_encoding.md R81). -/
def execRotClkf (s : State) : Host.Outcome State Fault Refusal :=
  if s.cfg.clkFallingDup then .next (notify .clkFalling sampleRotation s) else .next (raise .protocol s)

/-- ROT.CLKE (R111). -/
def execRotClke (s : State) : Host.Outcome State Fault Refusal := .next (notify .clkEither sampleRotation s)

/-- ROT.DTE (R112). -/
def execRotDte (s : State) : Host.Outcome State Fault Refusal := .next (notify .dtEither sampleRotation s)

end Sys2Proof.Machine
end

