-- ==== Sys2Proof/Machine/Dispatch.lean ====
section
/-! DEFINITION. The dispatch: one arm per operation, each a direct call of its meaning. -/

namespace Sys2Proof.Machine

/-- The meaning of an operation in a state, whose `port` holds the sample bundle (spec/30_encoding.md R70). -/
def exec (i : Instr) (s : State) : Host.Outcome State Fault Refusal :=
  match i with
  | .construct => Sys2Proof.Machine.execConstruct s
  | .teardown => Sys2Proof.Machine.execTeardown s
  | .rotClkf => Sys2Proof.Machine.execRotClkf s
  | .rotClke => Sys2Proof.Machine.execRotClke s
  | .rotDte => Sys2Proof.Machine.execRotDte s
  | .pushF => Sys2Proof.Machine.execPushF s
  | .hret => Sys2Proof.Machine.execHret s

end Sys2Proof.Machine
end

