-- ==== Sys2Proof/WellFormed.lean ====
section
/-! DEFINITION. Well-formedness. An operation has no fields, so every term of Instr is well-formed. What can be ill-formed is
an operation WORD: the nine reserved words of spec/30_encoding.md R75. They are listed here from R75, apart from the decoder,
so that the two can be held against each other. -/

namespace Sys2Proof

/-- The nine reserved words, in the order of R75. -/
def reservedWords : List Opw :=
  [0b0010#4, 0b0011#4, 0b0111#4, 0b1001#4, 0b1010#4, 0b1011#4, 0b1101#4, 0b1110#4, 0b1111#4]

/-- A word is well-formed when it is not reserved (R75). -/
def Opw.wf (w : Opw) : Bool := !reservedWords.contains w

/-- An operation is well-formed. It has no field that could be wrong (R77), so each constructor is. -/
def Instr.wf : Instr → Bool
  | .construct => true
  | .teardown => true
  | .rotClkf => true
  | .rotClke => true
  | .rotDte => true
  | .pushF => true
  | .hret => true

end Sys2Proof
end

