-- ==== Sys2Proof/Decode.lean ====
section
/-! DEFINITION. The decoder from 4-bit operation words (spec/30_encoding.md R71 to R75, R80) and, after it, the encoder. -/

namespace Sys2Proof

/-- What a word decodes to: an operation, or a reserved word rejected by name (R80). -/
inductive Decoded where
  /-- The word means this operation (R74). -/
  | op (i : Instr)
  /-- The word is reserved and the block gives it no meaning (R75). -/
  | reserved (w : Opw)
deriving DecidableEq, Repr

/-- The field CLS = OPW[3:2] (R71). -/
def Opw.cls (w : Opw) : BitVec 2 := w.extractLsb' 2 2

/-- The field SRC = OPW[1:0] (R71). -/
def Opw.src (w : Opw) : BitVec 2 := w.extractLsb' 0 2

/-- The class a CLS value names (R72). -/
def OpClass.ofBits (c : BitVec 2) : OpClass :=
  if c = 0b00#2 then .life
  else if c = 0b01#2 then .rot
  else if c = 0b10#2 then .push
  else .host

/-- The operation a class and a SRC value name, where there is one (R73). -/
def opOf (c : OpClass) (src : BitVec 2) : Option Instr :=
  match c with
  | .life => if src = 0b00#2 then some .construct else if src = 0b01#2 then some .teardown else none
  | .rot =>
    if src = 0b00#2 then some .rotClkf
    else if src = 0b01#2 then some .rotClke
    else if src = 0b10#2 then some .rotDte
    else none
  | .push => if src = 0b00#2 then some .pushF else none
  | .host => if src = 0b00#2 then some .hret else none

/-- The decoder, total on the 16 words (R80). -/
def decode (w : Opw) : Decoded :=
  match opOf (OpClass.ofBits (Opw.cls w)) (Opw.src w) with
  | some i => .op i
  | none => .reserved w

/-- The operation read from an instruction whose bits are `w`, of which the lowest `nbits` are given and the others are 0.
An operation is exactly 4 bits (R71): a decoder reads OPW = bits 3..0, and the bits that pad the word to whole bytes belong to
no operation (log entry 10). -/
def decodeTableWord (nbits w : Nat) : Option Instr :=
  match decode (BitVec.ofNat 4 (w % 2 ^ nbits)) with
  | .op i => some i
  | .reserved _ => none

/-- The CLS value of a class (R72). -/
def OpClass.toBits : OpClass → BitVec 2
  | .life => 0b00#2
  | .rot => 0b01#2
  | .push => 0b10#2
  | .host => 0b11#2

/-- The class of an operation (R73). -/
def Instr.opClass : Instr → OpClass
  | .construct => .life
  | .teardown => .life
  | .rotClkf => .rot
  | .rotClke => .rot
  | .rotDte => .rot
  | .pushF => .push
  | .hret => .host

/-- The SRC value of an operation (R73). -/
def Instr.srcBits : Instr → BitVec 2
  | .construct => 0b00#2
  | .teardown => 0b01#2
  | .rotClkf => 0b00#2
  | .rotClke => 0b01#2
  | .rotDte => 0b10#2
  | .pushF => 0b00#2
  | .hret => 0b00#2

/-- The encoder: the word OPW with CLS in bits 3..2 and SRC in bits 1..0 (R71). -/
def encode (i : Instr) : Opw := i.opClass.toBits ++ i.srcBits

end Sys2Proof
end

