-- ==== Sys2Proof/Machine/Fetch.lean ====
section
/-! DEFINITION. What the block is presented with next. The block has no program counter and fetches no instruction
(spec/10_state.md R30): the environment's next turn decides (log entry 1). -/

namespace Sys2Proof.Machine

/-- What a turn comes to. -/
inductive Fetched where
  /-- An operation word is presented in the state `s`, whose port holds its bundle. -/
  | word (w : Opw) (s : State)
  /-- Nothing is presented to the block, and `s` is the state after the turn. -/
  | quiet (s : State)
deriving DecidableEq, Repr

/-- The environment's next turn. With no turn left nothing happens (spec/60_exceptions.md R225). A pending notification that
is taken up is presented with the bundle sampled now and is no longer pending (spec/60_exceptions.md R211); should the block be
BUSY, it is held and pending again. A `run` turn that names no pending notification presents nothing (log entry 8). -/
def fetch (s : State) : Fetched :=
  match s.input with
  | [] => .quiet s
  | .present w b :: rest => .word w { s with port := b, input := rest }
  | .edge pin e :: rest => .quiet { pinEdge pin e s with input := rest }
  | .offer c :: rest => .quiet { s with offer := c, input := rest }
  | .run k b :: rest =>
    match s.pending[k]? with
    | none => .quiet { s with input := rest }
    | some src =>
      .word (encode (Source.op src)) { s with pending := s.pending.eraseIdx k, port := b, input := rest }

/-- A table word presented next, with the sample port as it stands (log entry 25). OPW is the low 4 bits (R71). -/
def presentNext (nbits w : Nat) (s : State) : State :=
  { s with input := .present (BitVec.ofNat 4 (w % 2 ^ nbits)) s.port :: s.input }

end Sys2Proof.Machine
end

