-- ==== Sys2Proof/Machine/Step.lean ====
section
/-! DEFINITION. One step: the environment's next turn, and the operation it presents, if any, executed as one atomic step
(spec/20_memory.md R60). -/

namespace Sys2Proof.Machine

/-- One step. A reserved word sets REFUSED (spec/60_exceptions.md R203). -/
def step (s : State) : Host.Outcome State Fault Refusal :=
  match fetch s with
  | .quiet t => .next t
  | .word w t =>
    match decode w with
    | .op i => exec i t
    | .reserved _ => .next (refuse t)

/-- The state in which the next step is presented with a table word. -/
def State.withFetchWord (s : State) (nbits w : Nat) : State := presentNext nbits w s

end Sys2Proof.Machine
end

