-- ==== Sys2Proof/Machine/Assembler.lean ====
section
/-! DEFINITION. The text syntax of operations (spec/30_encoding.md R82): a line read into an operation word and its sample
bundle. It is a notation for what the environment presents and no part of the block. Log entry 20. -/

namespace Sys2Proof.Machine

/-- The keys of the sample bundle fields (R82). -/
inductive AsmKey where
  | push
  | clk
  | dt
  | t
  | ok
deriving DecidableEq, Repr

/-- What a line comes to. -/
inductive AsmLine where
  /-- Nothing but blanks or a comment. -/
  | blank
  /-- An operation: its word and its bundle. -/
  | op (w : Opw) (b : Bundle)
  /-- Not a line of the syntax. -/
  | malformed
deriving DecidableEq, Repr

/-- The mnemonics (R74). -/
def mnemonicText : Instr → List Char
  | .construct => "CONSTRUCT".toList
  | .teardown => "TEARDOWN".toList
  | .rotClkf => "ROT.CLKF".toList
  | .rotClke => "ROT.CLKE".toList
  | .rotDte => "ROT.DTE".toList
  | .pushF => "PUSH.F".toList
  | .hret => "HRET".toList

/-- Every operation, in the order of the opcode map (R74). -/
def allOperations : List Instr := [.construct, .teardown, .rotClkf, .rotClke, .rotDte, .pushF, .hret]

/-- The operation a mnemonic names. -/
def mnemonicOp (cs : List Char) : Option Instr := allOperations.find? (fun i => mnemonicText i == cs)

/-- The key a text names (R82). -/
def keyOf (cs : List Char) : Option AsmKey :=
  if cs = "push".toList then some .push
  else if cs = "clk".toList then some .clk
  else if cs = "dt".toList then some .dt
  else if cs = "t".toList then some .t
  else if cs = "ok".toList then some .ok
  else none

/-- A decimal number, continuing from `acc`. -/
def decimalFrom : Nat → List Char → Option Nat
  | acc, [] => some acc
  | acc, ch :: cs =>
    if '0'.toNat ≤ ch.toNat ∧ ch.toNat ≤ '9'.toNat then decimalFrom (10 * acc + (ch.toNat - '0'.toNat)) cs else none

/-- A decimal number of at least one digit. -/
def decimal : List Char → Option Nat
  | [] => none
  | ch :: cs => decimalFrom 0 (ch :: cs)

/-- A key=value pair; only t takes values above 1 (R76, R82). -/
def fieldOf (cs : List Char) : Option (AsmKey × Nat) :=
  match keyOf (cs.takeWhile (fun ch => ch != '=')), decimal ((cs.dropWhile (fun ch => ch != '=')).drop 1) with
  | some .t, some v => some (.t, v)
  | some key, some v => if v ≤ 1 then some (key, v) else none
  | _, _ => none

/-- The words of a line, `word` being the one read so far. -/
def wordsFrom : List Char → List Char → List (List Char)
  | word, [] => if word = [] then [] else [word]
  | word, ch :: cs =>
    if ch = ' ' then (if word = [] then wordsFrom [] cs else word :: wordsFrom [] cs)
    else wordsFrom (word ++ [ch]) cs

/-- The words of a line before its comment, which starts at a semicolon (R82). -/
def wordsOf (line : List Char) : List (List Char) := wordsFrom [] (line.takeWhile (fun ch => ch != ';'))

/-- The value a list of pairs gives a key, 0 where it gives none. -/
def fieldValue (fs : List (AsmKey × Nat)) (key : AsmKey) : Nat :=
  match fs.find? (fun f => f.1 == key) with
  | some f => f.2
  | none => 0

/-- The bundle of a list of pairs. A field that is omitted is one the operation does not read (R82). -/
def bundleOf (fs : List (AsmKey × Nat)) : Bundle where
  p := BitVec.ofNat 1 (fieldValue fs .push)
  c := BitVec.ofNat 1 (fieldValue fs .clk)
  d := BitVec.ofNat 1 (fieldValue fs .dt)
  t := fieldValue fs .t
  k := fieldValue fs .ok == 1

/-- The fields an operation reads of a bundle, under a configuration (spec/30_encoding.md R76). -/
def fieldsRead (cfg : Config) (b : Bundle) : Instr → List AsmKey
  | .construct => [.t, .clk, .ok]
  | .teardown => []
  | .rotClkf => if isPressed cfg b then [.push, .t] else [.push, .clk, .dt]
  | .rotClke => if isPressed cfg b then [.push, .t] else [.push, .clk, .dt]
  | .rotDte => if isPressed cfg b then [.push, .t] else [.push, .clk, .dt]
  | .pushF => [.push, .t]
  | .hret => []

/-- An operation with its pairs: each key at most once, and every field the operation reads is given (R82). -/
def assembleOp (cfg : Config) (i : Instr) (fs : List (AsmKey × Nat)) : AsmLine :=
  if (fs.map Prod.fst).Nodup ∧ ∀ key ∈ fieldsRead cfg (bundleOf fs) i, key ∈ fs.map Prod.fst
  then .op (encode i) (bundleOf fs)
  else .malformed

/-- A line of the text syntax (R82). -/
def assemble (cfg : Config) (line : List Char) : AsmLine :=
  match wordsOf line with
  | [] => .blank
  | m :: ws =>
    match mnemonicOp m, ws.mapM fieldOf with
    | some i, some fs => assembleOp cfg i fs
    | _, _ => .malformed

end Sys2Proof.Machine
end

