-- ==== Sys2Proof/Safety.lean ====
section
/-! DEFINITION. The terms claims use: which operations and words are rotations, when a run has ended well, the host's duties,
the invariants of the registers and of the pending notifications, and the relations between two states that differ only in
what never matters. -/

namespace Sys2Proof.Safety

open Sys2Proof.Machine

/-- The operations the table of spec/43_dispatch.md R161 calls ROT: ROT.CLKE, ROT.DTE, and ROT.CLKF when
CLK_FALLING_DUP = true. -/
abbrev IsRotation (cfg : Config) (i : Instr) : Prop :=
  i = .rotClke ∨ i = .rotDte ∨ (i = .rotClkf ∧ cfg.clkFallingDup = true)

/-- The words of those operations (spec/30_encoding.md R74). -/
abbrev IsRotationWord (cfg : Config) (w : Opw) : Prop :=
  w = 0b0101#4 ∨ w = 0b0110#4 ∨ (w = 0b0100#4 ∧ cfg.clkFallingDup = true)

/-- FSM is IDLE or BUSY. -/
abbrev Running (s : State) : Prop := s.fsm = .idle ∨ s.fsm = .busy

/-- The previous pin pair, SC[1:0] (spec/10_state.md R21). -/
def lastPair (sc : ShiftCode) : BitVec 2 := sc.extractLsb' 0 2

/-- The code an unsuppressed rotation forms: the last pair, then the sampled one (spec/41_rotation.md R120). -/
def newCode (sc : ShiftCode) (b : Bundle) : ShiftCode := lastPair sc ++ (b.c ++ b.d)

/-! ### Runs and duties -/

/-- `k` steps. It is the run of the machine as the host reads it, said of State itself (see Laws/Step.lean). -/
def runFor : Nat → State → Host.Outcome State Fault Refusal
  | 0, s => .next s
  | k + 1, s =>
    match step s with
    | .next t => runFor k t
    | .fault r => .fault r
    | .refused r => .refused r

/-- The run has ended: everything presented is disposed of and FSM ≠ BUSY (spec/43_dispatch.md R170). -/
abbrev RunEnded (s : State) : Prop := s.input = [] ∧ s.pending = [] ∧ s.fsm ≠ .busy

/-- A good end: no fault recorded and no word refused (spec/60_exceptions.md R200). -/
abbrev GoodEnd (s : State) : Prop := RunEnded s ∧ s.flt = 0b00#2 ∧ s.refused = false

/-- A turn presents the word `w`. -/
def presents (w : Opw) : Turn → Bool
  | .present v _ => v == w
  | .edge _ _ => false
  | .run _ _ => false
  | .offer _ => false

/-- A hang: FSM = BUSY and no HRET to come (spec/43_dispatch.md R170). -/
abbrev Hang (s : State) : Prop := s.fsm = .busy ∧ s.input.all (fun u => !presents 0b1100#4 u) = true

/-- An operation reads the time sample in a state (spec/30_encoding.md R76; log entry 13): a CONSTRUCT that sets TS, a PUSH.F
that runs DebounceGate, a rotation that runs SampleRotation and is suppressed. One that is held, dropped or faults reads no
sample. -/
def readsTime (s : State) : Instr → Bool
  | .construct => decide (s.fsm = .off ∨ s.fsm = .down) && s.port.k
  | .teardown => false
  | .rotClkf => s.cfg.clkFallingDup && decide (s.fsm = .idle) && isPressed s.cfg s.port
  | .rotClke => decide (s.fsm = .idle) && isPressed s.cfg s.port
  | .rotDte => decide (s.fsm = .idle) && isPressed s.cfg s.port
  | .pushF => decide (s.fsm = .idle)
  | .hret => false

/-- The time sample the next step reads, if it reads one. -/
def timeRead (s : State) : Option Nat :=
  match fetch s with
  | .quiet _ => none
  | .word w u =>
    match decode w with
    | .op i => if readsTime u i then some (now u.port) else none
    | .reserved _ => none

/-- The time samples read in `k` steps do not decrease, from `t0` on. -/
def timesRiseFor : Nat → Nat → State → Bool
  | 0, _, _ => true
  | k + 1, t0, s =>
    match step s with
    | .next t =>
      match timeRead s with
      | some t1 => decide (t0 ≤ t1) && timesRiseFor k t1 t
      | none => timesRiseFor k t0 t
    | .fault _ => true
    | .refused _ => true

/-- The GPIO environment's duty: T does not decrease over the operations in their execution order, from `t0` on
(spec/60_exceptions.md R221). A T that no operation reads is ignored (spec/30_encoding.md R76). The step does not rest on the
duty: spec/42_push.md R141 says what a decreasing T gives (log entry 13). -/
def timesRise (t0 : Nat) (s : State) : Bool := timesRiseFor s.input.length t0 s

/-- The duties on what is presented next (spec/43_dispatch.md R171; log entry 27): CONSTRUCT only from OFF or DOWN, HRET only
where a handler runs or one may still run after a TEARDOWN, notifications only of the configuration's sources and not before a
successful CONSTRUCT, and no reserved word. -/
def presentsLawfully (s : State) : Bool :=
  match fetch s with
  | .quiet _ => true
  | .word w u =>
    match decode w with
    | .op .construct => decide (u.fsm = .off ∨ u.fsm = .down)
    | .op .teardown => true
    | .op .rotClkf => u.cfg.clkFallingDup && decide (u.fsm ≠ .off ∧ u.fsm ≠ .failed)
    | .op .rotClke => decide (u.fsm ≠ .off ∧ u.fsm ≠ .failed)
    | .op .rotDte => decide (u.fsm ≠ .off ∧ u.fsm ≠ .failed)
    | .op .pushF => decide (u.fsm ≠ .off ∧ u.fsm ≠ .failed)
    | .op .hret => decide (u.fsm = .busy ∨ u.fsm = .down)
    | .reserved _ => false

/-! ### Invariants -/

/-- A nibble of HR is 0 or a valid code (spec/10_state.md R38). -/
abbrev ZeroOrValid (c : BitVec 4) : Prop := c = 0 ∨ readVT c = 1#1

/-- The invariant of HR (spec/10_state.md R38). SC and HR are in range by their types. -/
abbrev HistoryOk (s : State) : Prop :=
  ∀ hr ∈ s.hr,
    ZeroOrValid (hr.extractLsb' 0 4) ∧ ZeroOrValid (hr.extractLsb' 4 4) ∧
      (hr.extractLsb' 4 4 ≠ 0 → hr.extractLsb' 0 4 ≠ 0)

/-- Only a registered source has a notification pending or held (spec/60_exceptions.md R211, spec/43_dispatch.md R165). -/
abbrev PendingOk (s : State) : Prop := ∀ src ∈ s.pending, registered s src = true

/-! ### Sequences of samples -/

/-- Rotation samples none of which is an unsuppressed valid code, the old ShiftCode being `sc` (spec/41_rotation.md R129). -/
def quietSamples (cfg : Config) : ShiftCode → List Bundle → Prop
  | _, [] => True
  | sc, b :: bs =>
    if b.p = cfg.pressedLevel then quietSamples cfg sc bs
    else readVT (newCode sc b) = 0#1 ∧ quietSamples cfg (newCode sc b) bs

/-- Times none of which is more than `limit` after the one before it, the first after `ts` (spec/42_push.md R147). -/
def gapsWithin (limit : Nat) : Nat → List Bundle → Prop
  | _, [] => True
  | ts, b :: bs => b.t ≤ ts + limit ∧ gapsWithin limit b.t bs

/-! ### Two states that differ only in what never matters -/

/-- Two phases with the same FSM state, registers related by `R` and the event being handled related by `E`. -/
def phaseRel (R : Regs → Regs → Prop) (E : Event → Event) : Phase → Phase → Prop
  | .off, .off => True
  | .idle a, .idle b => R a b
  | .busy a e, .busy b f => R a b ∧ f = E e
  | .down, .down => True
  | .failed, .failed => True
  | _, _ => False

/-- Two states alike but for their registers, which `R` relates, and the sample port, which every operation overwrites. -/
structure Alike (R : Regs → Regs → Prop) (s t : State) : Prop where
  phase : phaseRel R id s.phase t.phase
  flt : t.flt = s.flt
  refused : t.refused = s.refused
  evh : t.evh = s.evh
  cfg : t.cfg = s.cfg
  offer : t.offer = s.offer
  pending : t.pending = s.pending
  input : t.input = s.input

/-- Registers that differ at most in SC[3:2]. -/
def sameButOldPair (a b : Regs) : Prop :=
  lastPair b.sc = lastPair a.sc ∧ b.hr = a.hr ∧ b.ts = a.ts ∧ b.initclk = a.initclk

/-- Registers that differ at most in HR[15:8]. -/
def sameButHistoryHigh (a b : Regs) : Prop :=
  b.sc = a.sc ∧ b.hr.extractLsb' 0 8 = a.hr.extractLsb' 0 8 ∧ b.ts = a.ts ∧ b.initclk = a.initclk

/-- Registers that differ at most in INITCLK. -/
def sameButInitclk (a b : Regs) : Prop := b.sc = a.sc ∧ b.hr = a.hr ∧ b.ts = a.ts

/-! ### The clk/dt mirror (spec/41_rotation.md R127) -/

/-- A code with its bits 1 and 0, and its bits 3 and 2, swapped. -/
def swapCode (c : BitVec 4) : BitVec 4 :=
  (c.extractLsb' 2 1 ++ c.extractLsb' 3 1) ++ (c.extractLsb' 0 1 ++ c.extractLsb' 1 1)

/-- HR with each of its four codes swapped. -/
def swapHistory (h : BitVec 16) : BitVec 16 :=
  (swapCode (h.extractLsb' 12 4) ++ swapCode (h.extractLsb' 8 4)) ++
    (swapCode (h.extractLsb' 4 4) ++ swapCode (h.extractLsb' 0 4))

/-- CW and CCW exchanged. -/
def swapEvent : Event → Event
  | .cw => .ccw
  | .ccw => .cw
  | .push => .push

/-- A bundle with clk and dt swapped. -/
def swapBundle (b : Bundle) : Bundle := { b with c := b.d, d := b.c }

/-- A turn whose samples have clk and dt swapped. The edge that made a notification pending does not enter SampleRotation
(spec/41_rotation.md R112), so edges stay. -/
def swapTurn : Turn → Turn
  | .present w b => .present w (swapBundle b)
  | .run k b => .run k (swapBundle b)
  | .edge pin e => .edge pin e
  | .offer c => .offer c

/-- Registers of two mirrored states. INITCLK, which no rule reads, is free. -/
def mirroredRegs (a b : Regs) : Prop := b.sc = swapCode a.sc ∧ b.hr = swapHistory a.hr ∧ b.ts = a.ts

/-- Two mirrored states: the second is the first with clk and dt swapped in its codes and in what is to come, and with CW and
CCW exchanged. -/
structure Mirrored (s t : State) : Prop where
  phase : phaseRel mirroredRegs swapEvent s.phase t.phase
  flt : t.flt = s.flt
  refused : t.refused = s.refused
  evh : t.evh = s.evh.map swapEvent
  cfg : t.cfg = s.cfg
  offer : t.offer = s.offer
  pending : t.pending = s.pending
  input : t.input = s.input.map swapTurn

end Sys2Proof.Safety
end

