-- ==== Sys2Proof/Certificates/Slice0/Obligations.lean ====
section
/-! DEFINITION. The statements for the provers. A statement about a result gives the whole next state as an update of the
old one, so that it is the frame as well: every field it does not name is unchanged. The block has no memory
(spec/20_memory.md R50), so no statement speaks of any. What is to be presented, the sample port, the configuration and the
waiting notifications stand in the state by the model's choice (log entries 1, 2, 5, 7); a statement that names one of these
fields rests on that form. -/

open Sys2Proof Sys2Proof.Machine Sys2Proof.Safety

/-! ### Encoding and the step -/

/-- R74, R80: the opcode map, row by row; every word not listed is reserved. -/
def Obligations.OpcodeMapDecodes : Prop :=
  ∀ w : Opw, decode w =
    if w = 0b0000#4 then .op .construct
    else if w = 0b0001#4 then .op .teardown
    else if w = 0b0100#4 then .op .rotClkf
    else if w = 0b0101#4 then .op .rotClke
    else if w = 0b0110#4 then .op .rotDte
    else if w = 0b1000#4 then .op .pushF
    else if w = 0b1100#4 then .op .hret
    else .reserved w

/-- R71, R74, R75: encoder and decoder agree both ways, the decoder rejects exactly the words listed as reserved, and a
decoder reads exactly 4 bits of a table word. That the bits padding a word to whole bytes belong to no operation is log
entry 10. -/
def Obligations.EncodeDecodeAgree : Prop :=
  (∀ i : Instr, i.wf = true → decode (encode i) = .op i) ∧
    (∀ (w : Opw) (i : Instr), decode w = .op i → encode i = w) ∧
    (∀ w : Opw, decode w = .reserved w ↔ Opw.wf w = false) ∧
    ∀ (i : Instr) (nbits pad : Nat), i.wf = true → 4 ≤ nbits →
      decodeTableWord nbits ((encode i).toNat + 16 * pad) = some i

/-- R70, R60: a presented word that decodes to `i` is executed as exec of `i` with its own bundle; around it the step only
moves past the turn. That what is presented stands in the state as a list of turns is log entry 1. -/
def Obligations.StepRunsDecodedOperation : Prop :=
  ∀ (s : State) (w : Opw) (b : Bundle) (rest : List Turn) (i : Instr),
    s.input = .present w b :: rest → decode w = .op i → i.wf = true →
    step s = exec i { s with port := b, input := rest }

/-- A table word placed for the next step is executed by it as exec in the very state it was placed in, with the sample bundle
that stands in the port there (the model's choice, log entry 25). -/
def Obligations.FetchWordRunsNext : Prop :=
  ∀ (s : State) (nbits w : Nat) (i : Instr),
    decodeTableWord nbits w = some i → step (s.withFetchWord nbits w) = exec i s

/-- R203: a reserved word, presented in any state, sets REFUSED and changes nothing else of the block. -/
def Obligations.ReservedWordOnlySetsRefused : Prop :=
  ∀ (s : State) (w : Opw) (b : Bundle) (rest : List Turn),
    s.input = .present w b :: rest → w ∈ reservedWords →
    step s = .next { s with refused := true, port := b, input := rest }

/-- R225: between operations the block does nothing. -/
def Obligations.NothingPresentedChangesNothing : Prop :=
  ∀ s : State, s.input = [] → step s = .next s

/-- R210, R211: an edge makes exactly one notification pending per registration watching it; nothing else changes. That pending
notifications stand in the state is log entry 7; their order there says nothing. -/
def Obligations.EdgeMakesOnePendingPerRegistration : Prop :=
  ∀ (s : State) (pin : Pin) (e : Edge) (rest : List Turn), s.input = .edge pin e :: rest →
    ∃ l : List Source, step s = .next { s with pending := l, input := rest } ∧
      l.count .pushFalling = s.pending.count .pushFalling +
        (if Running s ∧ pin = .push ∧ e = .falling then 1 else 0) ∧
      l.count .clkFalling = s.pending.count .clkFalling +
        (if Running s ∧ pin = .clk ∧ e = .falling ∧ s.cfg.clkFallingDup = true then 1 else 0) ∧
      l.count .clkEither = s.pending.count .clkEither + (if Running s ∧ pin = .clk then 1 else 0) ∧
      l.count .dtEither = s.pending.count .dtEither + (if Running s ∧ pin = .dt then 1 else 0)

/-- R165, R212: any pending or held notification may be taken up; it executes with the bundle sampled then, and is no longer
pending. That its place in the list names it is log entry 8. -/
def Obligations.PendingNotificationTakenUp : Prop :=
  ∀ (s : State) (k : Nat) (b : Bundle) (rest : List Turn) (src : Source),
    s.input = .run k b :: rest → s.pending[k]? = some src →
    step s = exec (Source.op src) { s with pending := s.pending.eraseIdx k, port := b, input := rest }

/-- Every step in every state answers a next state, and consumes exactly one turn. It rests on R200 and R257 (a fault is
recorded and the block goes on; every operation is one step) in the model's form: a turn consumed is log entry 1, that nothing
stops the machine is log entry 22, that the empty list of turns steps to itself is log entry 18, and that a notification in
BUSY has a step, which holds it, where R165 gives it none, is log entry 7. -/
def Obligations.EveryStepAnswersNext : Prop :=
  ∀ s : State, ∃ t : State, step s = .next t ∧ t.input = s.input.tail

/-- R257: a finite list of turns (log entry 1) is worked off in as many steps. It does not say that the run has then ended in
the sense of R170: RunEndedByTeardownOrHang does. -/
def Obligations.TurnsAreWorkedOffInAsManySteps : Prop :=
  ∀ s : State, ∃ t : State, runFor s.input.length s = .next t ∧ t.input = []

/-- R170, R165, R251: when a run has ended and when it hangs. A hang is kept by every step but a TEARDOWN (an HRET is none of
its turns), so no run of it ends; a TEARDOWN ends it; whatever the turns, one TEARDOWN after them ends the run; an ended run
changes no more. The turns and the waiting list are the model's form (log entries 1, 7). -/
def Obligations.RunEndedByTeardownOrHang : Prop :=
  (∀ s : State, Hang s → (∀ b rest, s.input ≠ .present 0b0001#4 b :: rest) → ∃ t : State, step s = .next t ∧ Hang t) ∧
  (∀ s : State, Hang s → s.input.all (fun u => !presents 0b0001#4 u) = true →
    ∀ k : Nat, ∃ t : State, runFor k s = .next t ∧ Hang t ∧ ¬ RunEnded t) ∧
  (∀ (s : State) (b : Bundle) (rest : List Turn), Hang s → s.input = .present 0b0001#4 b :: rest →
    ∃ t : State, step s = .next t ∧ t.fsm = .down ∧ t.pending = [] ∧ ¬ Hang t) ∧
  (∀ (s : State) (b : Bundle), PendingOk s →
    ∃ t : State, runFor (s.input.length + 1) { s with input := s.input ++ [.present 0b0001#4 b] } = .next t ∧ RunEnded t) ∧
  (∀ s : State, RunEnded s → ∀ k : Nat, runFor k s = .next s)

/-- R200: a run that has set a fault bit or REFUSED never comes to a good end. -/
def Obligations.MarkedRunHasNoGoodEnd : Prop :=
  ∀ s : State, s.flt ≠ 0b00#2 ∨ s.refused = true →
    ∀ k : Nat, ∃ t : State, runFor k s = .next t ∧ (t.flt ≠ 0b00#2 ∨ t.refused = true) ∧ ¬ GoodEnd t

/-- R171, R202, R203: an environment that keeps the duties on what it presents sets neither FLT[1] nor REFUSED, and one that
breaks one of them sets one of the two. Which duties these are is log entry 27. -/
def Obligations.DutiesKeptExactlyWithoutMark : Prop :=
  ∀ s t : State, step s = .next t →
    (presentsLawfully s = true → t.flt.getLsbD 1 = s.flt.getLsbD 1 ∧ t.refused = s.refused) ∧
      (presentsLawfully s = false → t.flt.getLsbD 1 = true ∨ t.refused = true)

/-- R141, R221: under the duty that T does not decrease, no operation reads a T earlier than TS, so no elapsed time is negative.
Which T count is log entry 13. -/
def Obligations.TimeDutyKeepsElapsedNonnegative : Prop :=
  ∀ (s : State) (t0 : Nat), (∀ ts ∈ s.ts, ts ≤ t0) → timesRise t0 s = true →
    ∀ k : Nat, ∃ t : State, runFor k s = .next t ∧ ∀ t1 ∈ timeRead t, ∀ ts ∈ t.ts, 0 ≤ elapsed t1 ts

/-! ### Reset, construction, teardown -/

/-- R37: what CONSTRUCT leaves, successful or not, and the state before the first one. -/
def Obligations.ResetValues : Prop :=
  (∀ s : State, s.fsm = .off ∨ s.fsm = .down → s.port.k = true →
    ∃ t : State, exec .construct s = .next t ∧ t.sc = some 0b0000#4 ∧ t.hr = some 0x0000#16 ∧ t.ts = some s.port.t ∧
      t.initclk = some s.port.c ∧ t.fsm = .idle ∧ t.pev = none ∧ t.flt = s.flt ∧ t.refused = s.refused ∧
      t.evh = s.evh) ∧
  (∀ s : State, s.fsm = .off ∨ s.fsm = .down → s.port.k = false →
    ∃ t : State, exec .construct s = .next t ∧ t.fsm = .failed ∧ t.flt = s.flt ||| 0b01#2 ∧ t.sc = none ∧ t.hr = none ∧
      t.ts = none ∧ t.initclk = none ∧ t.refused = s.refused ∧ t.evh = s.evh) ∧
  (State.reset.fsm = .off ∧ State.reset.flt = 0b00#2 ∧ State.reset.refused = false ∧ State.reset.evh = [] ∧
    State.reset.sc = none ∧ State.reset.hr = none ∧ State.reset.ts = none ∧ State.reset.pev = none ∧
    State.reset.initclk = none)

/-- R240, R201, R202: CONSTRUCT in each FSM state. That a successful one makes the offered configuration the one in force is
R34 in the form of log entry 5. -/
def Obligations.ConstructInEveryState : Prop :=
  (∀ s : State, s.fsm = .off ∨ s.fsm = .down → s.port.k = true →
    exec .construct s =
      .next { s with
        phase := .idle { sc := 0b0000#4, hr := 0x0000#16, ts := s.port.t, initclk := s.port.c }
        cfg := s.offer }) ∧
  (∀ s : State, s.fsm = .off ∨ s.fsm = .down → s.port.k = false →
    exec .construct s = .next { s with phase := .failed, flt := s.flt ||| 0b01#2 }) ∧
  (∀ s : State, s.fsm = .idle ∨ s.fsm = .busy ∨ s.fsm = .failed →
    exec .construct s = .next { s with flt := s.flt ||| 0b10#2 })

/-- R167, R165: TEARDOWN in each FSM state. That the waiting notifications are dropped with it is log entry 7. -/
def Obligations.TeardownInEveryState : Prop :=
  (∀ s : State, Running s → exec .teardown s = .next { s with phase := .down, pending := [] }) ∧
  (∀ s : State, ¬ Running s → exec .teardown s = .next s)

/-- R166: HRET in each FSM state. -/
def Obligations.HretInEveryState : Prop :=
  (∀ (s : State) (r : Regs) (e : Event), s.phase = .busy r e → exec .hret s = .next { s with phase := .idle r }) ∧
  (∀ s : State, s.fsm = .down → exec .hret s = .next s) ∧
  (∀ s : State, s.fsm = .off ∨ s.fsm = .idle ∨ s.fsm = .failed →
    exec .hret s = .next { s with flt := s.flt ||| 0b10#2 })

/-- R34: only a successful CONSTRUCT changes the configuration in force, to the one the supervisor offers (the offered
configuration is the model's, log entry 5). -/
def Obligations.ConfigChangedOnlyByConstruct : Prop :=
  ∀ s t : State, step s = .next t → t.cfg ≠ s.cfg →
    (∃ b rest, s.input = .present 0b0000#4 b :: rest ∧ b.k = true) ∧ (s.fsm = .off ∨ s.fsm = .down) ∧
      t.fsm = .idle ∧ t.cfg = s.offer

/-! ### Rotation -/

/-- R100: a suppressed rotation writes TS and nothing else, whatever C and D are. -/
def Obligations.SuppressedRotationWritesOnlyTs : Prop :=
  ∀ (s : State) (i : Instr) (r : Regs), IsRotation s.cfg i → s.phase = .idle r → s.port.p = s.cfg.pressedLevel →
    exec i s = .next { s with phase := .idle { r with ts := s.port.t } }

/-- R101, R102, R104 (and R103, R164): an unsuppressed rotation in IDLE. `sc` is the new code and `hr` the new history. -/
def Obligations.RotationInIdle : Prop :=
  ∀ (s : State) (i : Instr) (r : Regs) (sc : BitVec 4) (hr : BitVec 16),
    IsRotation s.cfg i → s.phase = .idle r → s.port.p ≠ s.cfg.pressedLevel →
    sc = (((r.sc <<< 2) &&& 0xF#4) ||| BitVec.zeroExtend 4 (s.port.c ++ s.port.d)) &&& 0xF#4 →
    hr = (r.hr <<< 4) ||| BitVec.zeroExtend 16 sc →
    sc = r.sc.extractLsb' 0 2 ++ (s.port.c ++ s.port.d) ∧ hr = r.hr.extractLsb' 0 12 ++ sc ∧
    exec i s =
      if readVT sc = 0#1 then .next { s with phase := .idle { r with sc := sc } }
      else if hr.extractLsb' 0 8 = 0x2B#8 then
        .next { s with phase := .busy { r with sc := sc, hr := hr } .cw, evh := s.evh ++ [.cw] }
      else if hr.extractLsb' 0 8 = 0x17#8 then
        .next { s with phase := .busy { r with sc := sc, hr := hr } .ccw, evh := s.evh ++ [.ccw] }
      else .next { s with phase := .idle { r with sc := sc, hr := hr } }

/-- R52: the valid codes are the ones where exactly one pin changed, which is odd parity; here bit by bit. -/
def Obligations.ValidCodesAreSinglePinChanges : Prop :=
  ∀ c : BitVec 4,
    (readVT c = 1#1 ↔ (c.extractLsb' 3 1 ≠ c.extractLsb' 1 1 ↔ c.extractLsb' 2 1 = c.extractLsb' 0 1)) ∧
      (readVT c = 1#1 ↔ c ∈ [1, 2, 4, 7, 8, 11, 13, 14])

/-- R121: an unsuppressed rotation writes HR exactly when exactly one pin differs from SC[1:0]. -/
def Obligations.HistoryWrittenExactlyOnSinglePinChange : Prop :=
  ∀ (s : State) (i : Instr) (r : Regs), IsRotation s.cfg i → s.phase = .idle r → s.port.p ≠ s.cfg.pressedLevel →
    ∃ t : State, exec i s = .next t ∧
      t.hr = some (if (s.port.c ≠ r.sc.extractLsb' 1 1 ↔ s.port.d = r.sc.extractLsb' 0 1)
        then (r.hr <<< 4) ||| BitVec.zeroExtend 16 (r.sc.extractLsb' 0 2 ++ (s.port.c ++ s.port.d)) else r.hr)

/-- R122: the outcome of an unsuppressed rotation in terms of the new code and the last valid one alone. -/
def Obligations.EventExactlyOnTerminalPair : Prop :=
  ∀ (s : State) (i : Instr) (r : Regs), IsRotation s.cfg i → s.phase = .idle r → s.port.p ≠ s.cfg.pressedLevel →
    ∃ t : State, exec i s = .next t ∧
      t.evh = s.evh ++
        (if newCode r.sc s.port = 0b1011#4 ∧ r.hr.extractLsb' 0 4 = 0b0010#4 then [.cw]
          else if newCode r.sc s.port = 0b0111#4 ∧ r.hr.extractLsb' 0 4 = 0b0001#4 then [.ccw]
          else [])

/-- R123: an event of a rotation means both pins are sampled high and exactly one of them was low before. -/
def Obligations.EventOnlyOnArrivalAtBothHigh : Prop :=
  ∀ (s t : State) (i : Instr), i ∈ [Instr.rotClkf, .rotClke, .rotDte] → exec i s = .next t → t.evh ≠ s.evh →
    s.port.c = 1 ∧ s.port.d = 1 ∧ ∃ sc ∈ s.sc, lastPair sc = 0b01#2 ∨ lastPair sc = 0b10#2

/-- R124: after CONSTRUCT, and any rotations that record no code, the first valid code gives no event. -/
def Obligations.FirstValidCodeAfterConstructIsSilent : Prop :=
  ∀ (s : State) (b0 : Bundle) (ops : List (Opw × Bundle)) (w : Opw) (b : Bundle) (rest : List Turn),
    s.fsm = .off ∨ s.fsm = .down → b0.k = true →
    s.input = .present 0b0000#4 b0 :: ((ops.map fun o => .present o.1 o.2) ++ .present w b :: rest) →
    (∀ o ∈ ops, IsRotationWord s.offer o.1) → IsRotationWord s.offer w →
    quietSamples s.offer 0 (ops.map Prod.snd) →
    ∃ t : State, runFor (ops.length + 2) s = .next t ∧ t.fsm = .idle ∧ t.evh = s.evh ∧ t.input = rest

/-- R125: a repeated sample forms an invalid code, and the run after it is the same as if it had not been presented. -/
def Obligations.RepeatedSampleChangesNothingLater : Prop :=
  ∀ (s : State) (r : Regs) (w : Opw) (b : Bundle) (rest : List Turn),
    s.phase = .idle r → s.input = .present w b :: rest → IsRotationWord s.cfg w → b.p ≠ s.cfg.pressedLevel →
    b.c ++ b.d = lastPair r.sc →
    (newCode r.sc b ∈ [0, 5, 10, 15] ∧
      step s = .next { s with
        phase := .idle { r with sc := lastPair r.sc ++ lastPair r.sc }, port := b, input := rest }) ∧
    ∀ k : Nat, ∃ t u : State,
      runFor (k + 1) s = .next t ∧ runFor k { s with input := rest } = .next u ∧
        Alike sameButOldPair t u

/-- R126: HR[15:8] never matters. Two states that differ only there step to two that differ only there. -/
def Obligations.HistoryHighNeverMatters : Prop :=
  ∀ s t s' : State, Alike sameButHistoryHigh s t → step s = .next s' →
    ∃ t' : State, step t = .next t' ∧ Alike sameButHistoryHigh s' t'

/-- R28: INITCLK is read by no rule. Two states that differ only there step to two that differ only there. -/
def Obligations.InitclkNeverMatters : Prop :=
  ∀ s t s' : State, Alike sameButInitclk s t → step s = .next s' →
    ∃ t' : State, step t = .next t' ∧ Alike sameButInitclk s' t'

/-- R127: swapping clk and dt preserves VT and maps the one terminal pair to the other, and swapping them in every sample
exchanges CW and CCW and changes nothing else. -/
def Obligations.MirrorSymmetry : Prop :=
  ((∀ c : BitVec 4, readVT (swapCode c) = readVT c) ∧ swapCode 0b0010#4 = 0b0001#4 ∧ swapCode 0b1011#4 = 0b0111#4) ∧
  ∀ s t s' : State, Mirrored s t → step s = .next s' →
    ∃ t' : State, step t = .next t' ∧ Mirrored s' t'

/-- R128: the canonical detent from any IDLE state, clockwise with its codes, and its mirror. -/
def Obligations.CanonicalDetent : Prop :=
  (∀ (s : State) (r : Regs) (w1 w2 w3 w4 : Opw) (b1 b2 b3 b4 : Bundle) (rest : List Turn),
    s.phase = .idle r →
    s.input = .present w1 b1 :: .present w2 b2 :: .present w3 b3 :: .present w4 b4 :: rest →
    (∀ w ∈ [w1, w2, w3, w4], IsRotationWord s.cfg w) → (∀ b ∈ [b1, b2, b3, b4], b.p ≠ s.cfg.pressedLevel) →
    b1.c ++ b1.d = 0b01#2 → b2.c ++ b2.d = 0b00#2 → b3.c ++ b3.d = 0b10#2 → b4.c ++ b4.d = 0b11#2 →
    ∃ t1 t2 t3 t4 : State,
      runFor 1 s = .next t1 ∧ runFor 2 s = .next t2 ∧ runFor 3 s = .next t3 ∧
      runFor 4 s = .next t4 ∧
      t1.evh = s.evh ∧ t2.evh = s.evh ∧ t3.evh = s.evh ∧ t4.evh = s.evh ++ [.cw] ∧ t4.fsm = .busy ∧
      t1.sc = some (lastPair r.sc ++ 0b01#2) ∧
      (lastPair r.sc = 0b11#2 → t1.sc = some 13) ∧ (lastPair r.sc = 0b00#2 → t1.sc = some 1) ∧
      (lastPair r.sc = 0b10#2 → t1.sc = some 9 ∧ readVT 9#4 = 0#1) ∧
      (lastPair r.sc = 0b01#2 → t1.sc = some 5 ∧ readVT 5#4 = 0#1) ∧
      t2.sc = some 4 ∧ t3.sc = some 2 ∧ t4.sc = some 11 ∧ t4.hr.map (BitVec.extractLsb' 0 8) = some 0x2B#8) ∧
  (∀ (s : State) (r : Regs) (w1 w2 w3 w4 : Opw) (b1 b2 b3 b4 : Bundle) (rest : List Turn),
    s.phase = .idle r →
    s.input = .present w1 b1 :: .present w2 b2 :: .present w3 b3 :: .present w4 b4 :: rest →
    (∀ w ∈ [w1, w2, w3, w4], IsRotationWord s.cfg w) → (∀ b ∈ [b1, b2, b3, b4], b.p ≠ s.cfg.pressedLevel) →
    b1.c ++ b1.d = 0b10#2 → b2.c ++ b2.d = 0b00#2 → b3.c ++ b3.d = 0b01#2 → b4.c ++ b4.d = 0b11#2 →
    ∃ t3 t4 : State,
      runFor 3 s = .next t3 ∧ runFor 4 s = .next t4 ∧
      t3.evh = s.evh ∧ t4.evh = s.evh ++ [.ccw] ∧ t4.fsm = .busy ∧
      t4.hr.map (BitVec.extractLsb' 0 8) = some 0x17#8)

/-- R129: rotations whose codes are all invalid or that are all suppressed never change HR and give no event. -/
def Obligations.QuietSequencesNeverFire : Prop :=
  ∀ (s : State) (r : Regs) (ops : List (Opw × Bundle)) (rest : List Turn),
    s.phase = .idle r → s.input = (ops.map fun o => .present o.1 o.2) ++ rest →
    (∀ o ∈ ops, IsRotationWord s.cfg o.1) → quietSamples s.cfg r.sc (ops.map Prod.snd) →
    ∃ t : State, runFor ops.length s = .next t ∧ t.fsm = .idle ∧ t.hr = s.hr ∧ t.evh = s.evh ∧
      t.input = rest

/-! ### Push -/

/-- R142, R143 (and R164): PUSH.F in IDLE. The elapsed time is an integer, taken against the old TS. -/
def Obligations.PushInIdle : Prop :=
  ∀ (s : State) (r : Regs), s.phase = .idle r →
    exec .pushF s =
      if (s.port.t : Int) - (r.ts : Int) > (s.cfg.pushTimeTicks : Int) ∧ s.port.p = s.cfg.pressedLevel then
        .next { s with phase := .busy { r with ts := s.port.t } .push, evh := s.evh ++ [.push] }
      else .next { s with phase := .idle { r with ts := s.port.t } }

/-- R146: pressed exactly PUSH_TIME_TICKS after TS gives NONE, one tick later gives PUSH. -/
def Obligations.WindowOpensStrictlyAfterThreshold : Prop :=
  (∀ (s : State) (r : Regs), s.phase = .idle r → s.port.p = s.cfg.pressedLevel →
    s.port.t = r.ts + s.cfg.pushTimeTicks →
    ∃ t : State, exec .pushF s = .next t ∧ t.fsm = .idle ∧ t.evh = s.evh) ∧
  (∀ (s : State) (r : Regs), s.phase = .idle r → s.port.p = s.cfg.pressedLevel →
    s.port.t = r.ts + s.cfg.pushTimeTicks + 1 →
    ∃ t : State, exec .pushF s = .next t ∧ t.fsm = .busy ∧ t.pev = some .push ∧ t.evh = s.evh ++ [.push])

/-- R150: a falling edge that samples the pin released gives NONE and writes TS. -/
def Obligations.ReleasedPushOnlyWritesTs : Prop :=
  ∀ (s : State) (r : Regs), s.phase = .idle r → s.port.p ≠ s.cfg.pressedLevel →
    exec .pushF s = .next { s with phase := .idle { r with ts := s.port.t } }

/-- R148: a pressed edge at most PUSH_TIME_TICKS after construction gives NONE. -/
def Obligations.ConstructionShutsWindow : Prop :=
  ∀ (s : State) (b0 b1 : Bundle) (rest : List Turn),
    s.fsm = .off ∨ s.fsm = .down → s.input = .present 0b0000#4 b0 :: .present 0b1000#4 b1 :: rest → b0.k = true →
    b1.t ≤ b0.t + s.offer.pushTimeTicks →
    ∃ u t : State, runFor 1 s = .next u ∧ u.ts = some b0.t ∧
      runFor 2 s = .next t ∧ t.fsm = .idle ∧ t.evh = s.evh

/-- R149: a rotation while the button is held restarts the push window. -/
def Obligations.TurningWhileHeldShutsWindow : Prop :=
  ∀ (s : State) (r : Regs) (w : Opw) (b0 b1 : Bundle) (rest : List Turn),
    s.phase = .idle r → s.input = .present w b0 :: .present 0b1000#4 b1 :: rest → IsRotationWord s.cfg w →
    b0.p = s.cfg.pressedLevel → b1.t ≤ b0.t + s.cfg.pushTimeTicks →
    ∃ u t : State, runFor 1 s = .next u ∧ u.ts = some b0.t ∧
      runFor 2 s = .next t ∧ t.fsm = .idle ∧ t.evh = s.evh

/-- R147: a train of push edges with every gap inside the window, from the last TS write on, gives no event. -/
def Obligations.PushTrainInsideWindowIsSilent : Prop :=
  ∀ (s : State) (r : Regs) (bs : List Bundle) (rest : List Turn),
    s.phase = .idle r → s.input = (bs.map fun b => .present 0b1000#4 b) ++ rest →
    gapsWithin s.cfg.pushTimeTicks r.ts bs →
    ∃ t : State, runFor bs.length s = .next t ∧ t.fsm = .idle ∧ t.evh = s.evh ∧ t.sc = s.sc ∧
      t.hr = s.hr ∧ t.input = rest

/-- R151: two clean presses, with the first handler's return between them. -/
def Obligations.TwoCleanPresses : Prop :=
  ∀ (s : State) (r : Regs) (b1 b2 b3 : Bundle) (rest : List Turn),
    s.phase = .idle r →
    s.input = .present 0b1000#4 b1 :: .present 0b1100#4 b2 :: .present 0b1000#4 b3 :: rest →
    b1.p = s.cfg.pressedLevel → b3.p = s.cfg.pressedLevel → b1.t > r.ts + s.cfg.pushTimeTicks → b3.t > b1.t →
    ∃ t : State, runFor 3 s = .next t ∧
      t.evh = s.evh ++ (if b3.t > b1.t + s.cfg.pushTimeTicks then [.push, .push] else [.push])

/-- R152: a push operation leaves SC and HR, an unsuppressed rotation leaves TS, in every state it is presented in. -/
def Obligations.PushAndRotationDatapathsDisjoint : Prop :=
  (∀ s t : State, exec .pushF s = .next t → t.sc = s.sc ∧ t.hr = s.hr) ∧
  (∀ (s t : State) (i : Instr), i ∈ [Instr.rotClkf, .rotClke, .rotDte] → exec i s = .next t →
    s.port.p ≠ s.cfg.pressedLevel → t.ts = s.ts)

/-! ### Notifications outside IDLE, and the dispatcher -/

/-- R165: while FSM = BUSY a notification of the configuration's sources changes no register; it waits with the pending ones
(log entry 7). -/
def Obligations.HeldNotificationChangesNoRegister : Prop :=
  ∀ (s : State) (src : Source), s.fsm = .busy → Config.hasSource s.cfg src = true →
    exec (Source.op src) s = .next { s with pending := s.pending ++ [src] }

/-- R165, R212: a notification of any source, held while a handler runs, executes after HRET with the bundle sampled then,
before those that were waiting already, which stay as they were. Holding it is putting it with the waiting notifications, and
its place there names it (log entries 7, 8). -/
def Obligations.HeldNotificationRunsAfterReturn : Prop :=
  ∀ (s : State) (r : Regs) (e : Event) (src : Source) (b0 b1 b2 : Bundle) (rest : List Turn),
    s.phase = .busy r e → Config.hasSource s.cfg src = true →
    s.input =
      .present (encode (Source.op src)) b0 :: .present 0b1100#4 b1 :: .run s.pending.length b2 :: rest →
    runFor 3 s = exec (Source.op src) { s with phase := .idle r, port := b2, input := rest }

/-- R165, R251: with no HRET and no TEARDOWN to come, the block stays BUSY: SC, HR, TS, INITCLK, PEV and EVH stay as they are,
and no waiting notification is lost. FLT and REFUSED may be set. That a held notification has a step, which puts it with the
waiting ones, is log entry 7. -/
def Obligations.BusyUntilReturnOrTeardown : Prop :=
  ∀ s : State, s.fsm = .busy → s.input.all (fun u => !presents 0b1100#4 u && !presents 0b0001#4 u) = true →
    ∀ k : Nat, ∃ t : State, runFor k s = .next t ∧ t.phase = s.phase ∧ t.evh = s.evh ∧
      (PendingOk s → ∀ src : Source, s.pending.count src ≤ t.pending.count src)

/-- R78, R160, R162, R166, R214: a dispatch calls the one handler the configuration binds to its event, and no handler is
entered otherwise; HRET ends it. That TEARDOWN ends it too in this view is log entry 26. -/
def Obligations.DispatchCallsBoundHandler : Prop :=
  (∀ s t : State, step s = .next t → t.evh ≠ s.evh →
    ∃ e : Event, t.evh = s.evh ++ [e] ∧ s.runningHandler = none ∧
      t.runningHandler = some (match e with
        | .cw => s.cfg.onCw
        | .ccw => s.cfg.onCcw
        | .push => s.cfg.onPush)) ∧
  (∀ s t : State, step s = .next t → t.evh = s.evh →
    t.runningHandler = s.runningHandler ∨
      (t.runningHandler = none ∧
        ∃ w b rest, s.input = .present w b :: rest ∧ (w = 0b1100#4 ∨ w = 0b0001#4))) ∧
  (∀ (s : State) (i : Instr), s.fsm = .busy → i = .hret ∨ i = .teardown →
    s.runningHandler ≠ none ∧ ∃ t : State, exec i s = .next t ∧ t.runningHandler = none)

/-- R168: in DOWN every ROT, PUSH.F and HRET is dropped. -/
def Obligations.DownDropsNotifications : Prop :=
  (∀ (s : State) (src : Source), s.fsm = .down → Config.hasSource s.cfg src = true →
    exec (Source.op src) s = .next s) ∧
  (∀ s : State, s.fsm = .down → exec .hret s = .next s)

/-- R202: each cause of the PROTOCOL fault sets FLT[1] with no other change. -/
def Obligations.ProtocolFaultSetsOnlyItsBit : Prop :=
  (∀ (s : State) (i : Instr), i ∈ [Instr.rotClkf, .rotClke, .rotDte, .pushF, .hret] →
    s.fsm = .off ∨ s.fsm = .failed → exec i s = .next { s with flt := s.flt ||| 0b10#2 }) ∧
  (∀ s : State, s.fsm = .idle → exec .hret s = .next { s with flt := s.flt ||| 0b10#2 }) ∧
  (∀ s : State, s.fsm = .idle ∨ s.fsm = .busy ∨ s.fsm = .failed →
    exec .construct s = .next { s with flt := s.flt ||| 0b10#2 }) ∧
  (∀ s : State, s.cfg.clkFallingDup = false → exec .rotClkf s = .next { s with flt := s.flt ||| 0b10#2 })

/-- R26: a fault bit is set or kept, never cleared, by every step. -/
def Obligations.FaultBitsNeverCleared : Prop :=
  ∀ s t : State, step s = .next t → ∀ k : Nat, s.flt.getLsbD k = true → t.flt.getLsbD k = true

/-- R27: REFUSED is set exactly when a word without meaning is presented, and is never cleared. -/
def Obligations.RefusedExactlyOnReservedWord : Prop :=
  ∀ s t : State, step s = .next t →
    (t.refused = true ↔ s.refused = true ∨ ∃ w b rest, s.input = .present w b :: rest ∧ w ∈ reservedWords)

/-- R213: a step sets at most one of FLT[0], FLT[1] and REFUSED. -/
def Obligations.AtMostOneMarkPerStep : Prop :=
  ∀ s t : State, step s = .next t →
    (t.flt = s.flt ∧ t.refused = s.refused) ∨ (t.flt = s.flt ||| 0b01#2 ∧ t.refused = s.refused) ∨
      (t.flt = s.flt ||| 0b10#2 ∧ t.refused = s.refused) ∨ (t.flt = s.flt ∧ t.refused = true)

/-- R29: EVH grows exactly by the event of a dispatch, at its end, one entry per dispatch. -/
def Obligations.EventHistoryGrowsExactlyByDispatch : Prop :=
  ∀ s t : State, step s = .next t →
    (t.evh = s.evh ∧ (t.fsm = .busy → s.fsm = .busy ∧ t.pev = s.pev)) ∨
      (∃ e : Event, t.evh = s.evh ++ [e] ∧ s.fsm = .idle ∧ t.fsm = .busy ∧ t.pev = some e)

/-- R161, R220: FSM moves only along the transition table, whatever is presented. -/
def Obligations.FsmMovesOnlyAlongTable : Prop :=
  ∀ s t : State, step s = .next t →
    t.fsm = s.fsm ∨
      (s.fsm, t.fsm) ∈ [(Fsm.off, Fsm.idle), (.off, .failed), (.idle, .busy), (.idle, .down), (.busy, .idle),
        (.busy, .down), (.down, .idle), (.down, .failed)]

/-- R36, R25: SC, HR, TS and INITCLK hold a value exactly in IDLE and BUSY, PEV exactly in BUSY. -/
def Obligations.ValuesExactlyWhileRunning : Prop :=
  ∀ s : State, (s.sc.isSome = true ↔ Running s) ∧ (s.hr.isSome = true ↔ Running s) ∧
    (s.ts.isSome = true ↔ Running s) ∧ (s.initclk.isSome = true ↔ Running s) ∧
    (s.pev.isSome = true ↔ s.fsm = .busy)

/-- R79, R78, R24: the outputs as functions of the state. -/
def Obligations.OutputsOfState : Prop :=
  ∀ s : State,
    s.evtCodeOut = (if s.fsm = .busy then
      (if s.pev = some .cw then 0b01#2 else if s.pev = some .ccw then 0b10#2 else 0b11#2) else 0b00#2) ∧
    (s.busyOut = 1 ↔ s.fsm = .busy) ∧
    s.stateOut = (match s.fsm with
      | .off => 0b000#3
      | .idle => 0b001#3
      | .busy => 0b010#3
      | .down => 0b011#3
      | .failed => 0b100#3) ∧
    s.fltOut = s.flt ∧ (s.refusedOut = 1 ↔ s.refused = true)

/-! ### Frames -/

/-- What a rotation operation leaves, in every state and for every sample. -/
def Obligations.RotationFrame : Prop :=
  ∀ (s t : State) (i : Instr), i ∈ [Instr.rotClkf, .rotClke, .rotDte] → exec i s = .next t →
    t.initclk = s.initclk ∧ t.flt &&& 0b01#2 = s.flt &&& 0b01#2 ∧ t.refused = s.refused ∧ t.cfg = s.cfg ∧
      t.offer = s.offer ∧ t.port = s.port ∧ t.input = s.input ∧
      (s.port.p = s.cfg.pressedLevel → t.sc = s.sc ∧ t.hr = s.hr ∧ t.evh = s.evh ∧ t.pev = s.pev ∧ t.fsm = s.fsm) ∧
      (s.fsm ≠ .idle → t.phase = s.phase ∧ t.evh = s.evh) ∧ (s.fsm ≠ .busy → t.pending = s.pending)

/-- What a push operation leaves, in every state and for every sample. -/
def Obligations.PushFrame : Prop :=
  ∀ s t : State, exec .pushF s = .next t →
    t.sc = s.sc ∧ t.hr = s.hr ∧ t.initclk = s.initclk ∧ t.flt &&& 0b01#2 = s.flt &&& 0b01#2 ∧ t.refused = s.refused ∧
      t.cfg = s.cfg ∧ t.offer = s.offer ∧ t.port = s.port ∧ t.input = s.input ∧
      (s.fsm ≠ .idle → t.phase = s.phase ∧ t.evh = s.evh) ∧ (s.fsm ≠ .busy → t.pending = s.pending)

/-- What the lifecycle and host operations leave. -/
def Obligations.LifecycleFrame : Prop :=
  (∀ (s t : State) (i : Instr), i ∈ [Instr.construct, .teardown, .hret] → exec i s = .next t →
    t.evh = s.evh ∧ t.refused = s.refused ∧ t.offer = s.offer ∧ t.port = s.port ∧ t.input = s.input) ∧
  (∀ s t : State, exec .construct s = .next t → t.pending = s.pending ∧ (Running s → t.phase = s.phase ∧ t.cfg = s.cfg)) ∧
  (∀ s t : State, exec .teardown s = .next t → t.flt = s.flt ∧ t.cfg = s.cfg) ∧
  (∀ s t : State, exec .hret s = .next t →
    t.sc = s.sc ∧ t.hr = s.hr ∧ t.ts = s.ts ∧ t.initclk = s.initclk ∧ t.flt &&& 0b01#2 = s.flt &&& 0b01#2 ∧
      t.cfg = s.cfg ∧ t.pending = s.pending)

/-! ### Invariants -/

/-- R38: the invariant of HR holds at power-on. -/
def Obligations.HistoryOkAtReset : Prop := HistoryOk State.reset

/-- R38: every step keeps the invariant of HR. -/
def Obligations.HistoryOkKeptByStep : Prop :=
  ∀ s t : State, HistoryOk s → step s = .next t → HistoryOk t

/-- R211: only registered sources have notifications pending at power-on (none is: log entry 7). -/
def Obligations.PendingOkAtReset : Prop := PendingOk State.reset

/-- R211, R165, R168: every step keeps it that only registered sources have notifications pending or held. It rests on the
waiting notifications being dropped by TEARDOWN itself (log entry 7). -/
def Obligations.PendingOkKeptByStep : Prop :=
  ∀ s t : State, PendingOk s → step s = .next t → PendingOk t
end

