-- ==== Sys2Proof/Laws/State.lean ====
section
/-! SUPPORT. One lemma per field per update of the state, each true by unfolding once, so that no later proof unfolds a record
update; and how the registers of a state read in each phase. -/

namespace Sys2Proof.Machine

/-! ### raise -/

@[simp] theorem raise_phase (k : FaultKind) (s : State) : (raise k s).phase = s.phase := rfl
@[simp] theorem raise_flt (k : FaultKind) (s : State) : (raise k s).flt = setFault k s.flt := rfl
@[simp] theorem raise_refused (k : FaultKind) (s : State) : (raise k s).refused = s.refused := rfl
@[simp] theorem raise_evh (k : FaultKind) (s : State) : (raise k s).evh = s.evh := rfl
@[simp] theorem raise_cfg (k : FaultKind) (s : State) : (raise k s).cfg = s.cfg := rfl
@[simp] theorem raise_offer (k : FaultKind) (s : State) : (raise k s).offer = s.offer := rfl
@[simp] theorem raise_port (k : FaultKind) (s : State) : (raise k s).port = s.port := rfl
@[simp] theorem raise_pending (k : FaultKind) (s : State) : (raise k s).pending = s.pending := rfl
@[simp] theorem raise_input (k : FaultKind) (s : State) : (raise k s).input = s.input := rfl

/-! ### refuse -/

@[simp] theorem refuse_phase (s : State) : (refuse s).phase = s.phase := rfl
@[simp] theorem refuse_flt (s : State) : (refuse s).flt = s.flt := rfl
@[simp] theorem refuse_refused (s : State) : (refuse s).refused = true := rfl
@[simp] theorem refuse_evh (s : State) : (refuse s).evh = s.evh := rfl
@[simp] theorem refuse_cfg (s : State) : (refuse s).cfg = s.cfg := rfl
@[simp] theorem refuse_offer (s : State) : (refuse s).offer = s.offer := rfl
@[simp] theorem refuse_port (s : State) : (refuse s).port = s.port := rfl
@[simp] theorem refuse_pending (s : State) : (refuse s).pending = s.pending := rfl
@[simp] theorem refuse_input (s : State) : (refuse s).input = s.input := rfl

/-! ### emit -/

@[simp] theorem emit_phase (e : Event) (r : Regs) (s : State) : (emit e r s).phase = .busy r e := rfl
@[simp] theorem emit_flt (e : Event) (r : Regs) (s : State) : (emit e r s).flt = s.flt := rfl
@[simp] theorem emit_refused (e : Event) (r : Regs) (s : State) : (emit e r s).refused = s.refused := rfl
@[simp] theorem emit_evh (e : Event) (r : Regs) (s : State) : (emit e r s).evh = s.evh ++ [e] := rfl
@[simp] theorem emit_cfg (e : Event) (r : Regs) (s : State) : (emit e r s).cfg = s.cfg := rfl
@[simp] theorem emit_offer (e : Event) (r : Regs) (s : State) : (emit e r s).offer = s.offer := rfl
@[simp] theorem emit_port (e : Event) (r : Regs) (s : State) : (emit e r s).port = s.port := rfl
@[simp] theorem emit_pending (e : Event) (r : Regs) (s : State) : (emit e r s).pending = s.pending := rfl
@[simp] theorem emit_input (e : Event) (r : Regs) (s : State) : (emit e r s).input = s.input := rfl

/-! ### handlerReturn -/

@[simp] theorem handlerReturn_phase (r : Regs) (s : State) : (handlerReturn r s).phase = .idle r := rfl
@[simp] theorem handlerReturn_flt (r : Regs) (s : State) : (handlerReturn r s).flt = s.flt := rfl
@[simp] theorem handlerReturn_refused (r : Regs) (s : State) : (handlerReturn r s).refused = s.refused := rfl
@[simp] theorem handlerReturn_evh (r : Regs) (s : State) : (handlerReturn r s).evh = s.evh := rfl
@[simp] theorem handlerReturn_cfg (r : Regs) (s : State) : (handlerReturn r s).cfg = s.cfg := rfl
@[simp] theorem handlerReturn_offer (r : Regs) (s : State) : (handlerReturn r s).offer = s.offer := rfl
@[simp] theorem handlerReturn_port (r : Regs) (s : State) : (handlerReturn r s).port = s.port := rfl
@[simp] theorem handlerReturn_pending (r : Regs) (s : State) : (handlerReturn r s).pending = s.pending := rfl
@[simp] theorem handlerReturn_input (r : Regs) (s : State) : (handlerReturn r s).input = s.input := rfl

/-! ### hold -/

@[simp] theorem hold_phase (src : Source) (s : State) : (hold src s).phase = s.phase := rfl
@[simp] theorem hold_flt (src : Source) (s : State) : (hold src s).flt = s.flt := rfl
@[simp] theorem hold_refused (src : Source) (s : State) : (hold src s).refused = s.refused := rfl
@[simp] theorem hold_evh (src : Source) (s : State) : (hold src s).evh = s.evh := rfl
@[simp] theorem hold_cfg (src : Source) (s : State) : (hold src s).cfg = s.cfg := rfl
@[simp] theorem hold_offer (src : Source) (s : State) : (hold src s).offer = s.offer := rfl
@[simp] theorem hold_port (src : Source) (s : State) : (hold src s).port = s.port := rfl
@[simp] theorem hold_pending (src : Source) (s : State) : (hold src s).pending = s.pending ++ [src] := rfl
@[simp] theorem hold_input (src : Source) (s : State) : (hold src s).input = s.input := rfl

/-! ### takeDown -/

@[simp] theorem takeDown_phase (s : State) : (takeDown s).phase = .down := rfl
@[simp] theorem takeDown_flt (s : State) : (takeDown s).flt = s.flt := rfl
@[simp] theorem takeDown_refused (s : State) : (takeDown s).refused = s.refused := rfl
@[simp] theorem takeDown_evh (s : State) : (takeDown s).evh = s.evh := rfl
@[simp] theorem takeDown_cfg (s : State) : (takeDown s).cfg = s.cfg := rfl
@[simp] theorem takeDown_offer (s : State) : (takeDown s).offer = s.offer := rfl
@[simp] theorem takeDown_port (s : State) : (takeDown s).port = s.port := rfl
@[simp] theorem takeDown_pending (s : State) : (takeDown s).pending = [] := rfl
@[simp] theorem takeDown_input (s : State) : (takeDown s).input = s.input := rfl

/-! ### pinEdge -/

@[simp] theorem pinEdge_phase (pin : Pin) (e : Edge) (s : State) : (pinEdge pin e s).phase = s.phase := rfl
@[simp] theorem pinEdge_flt (pin : Pin) (e : Edge) (s : State) : (pinEdge pin e s).flt = s.flt := rfl
@[simp] theorem pinEdge_refused (pin : Pin) (e : Edge) (s : State) : (pinEdge pin e s).refused = s.refused := rfl
@[simp] theorem pinEdge_evh (pin : Pin) (e : Edge) (s : State) : (pinEdge pin e s).evh = s.evh := rfl
@[simp] theorem pinEdge_cfg (pin : Pin) (e : Edge) (s : State) : (pinEdge pin e s).cfg = s.cfg := rfl
@[simp] theorem pinEdge_offer (pin : Pin) (e : Edge) (s : State) : (pinEdge pin e s).offer = s.offer := rfl
@[simp] theorem pinEdge_port (pin : Pin) (e : Edge) (s : State) : (pinEdge pin e s).port = s.port := rfl
@[simp] theorem pinEdge_pending (pin : Pin) (e : Edge) (s : State) :
    (pinEdge pin e s).pending =
      s.pending ++ allSources.filter (fun src => registered s src && Source.watches src pin e) := rfl
@[simp] theorem pinEdge_input (pin : Pin) (e : Edge) (s : State) : (pinEdge pin e s).input = s.input := rfl

/-! ### What the updates leave of FSM, the registers and PEV -/

@[simp] theorem raise_fsm (k : FaultKind) (s : State) : (raise k s).fsm = s.fsm := rfl
@[simp] theorem raise_regs (k : FaultKind) (s : State) : (raise k s).regs = s.regs := rfl
@[simp] theorem raise_pev (k : FaultKind) (s : State) : (raise k s).pev = s.pev := rfl
@[simp] theorem refuse_fsm (s : State) : (refuse s).fsm = s.fsm := rfl
@[simp] theorem refuse_regs (s : State) : (refuse s).regs = s.regs := rfl
@[simp] theorem refuse_pev (s : State) : (refuse s).pev = s.pev := rfl
@[simp] theorem hold_fsm (src : Source) (s : State) : (hold src s).fsm = s.fsm := rfl
@[simp] theorem hold_regs (src : Source) (s : State) : (hold src s).regs = s.regs := rfl
@[simp] theorem hold_pev (src : Source) (s : State) : (hold src s).pev = s.pev := rfl
@[simp] theorem pinEdge_fsm (pin : Pin) (e : Edge) (s : State) : (pinEdge pin e s).fsm = s.fsm := rfl
@[simp] theorem pinEdge_regs (pin : Pin) (e : Edge) (s : State) : (pinEdge pin e s).regs = s.regs := rfl
@[simp] theorem pinEdge_pev (pin : Pin) (e : Edge) (s : State) : (pinEdge pin e s).pev = s.pev := rfl
@[simp] theorem emit_fsm (e : Event) (r : Regs) (s : State) : (emit e r s).fsm = .busy := rfl
@[simp] theorem emit_regs (e : Event) (r : Regs) (s : State) : (emit e r s).regs = some r := rfl
@[simp] theorem emit_pev (e : Event) (r : Regs) (s : State) : (emit e r s).pev = some e := rfl
@[simp] theorem handlerReturn_fsm (r : Regs) (s : State) : (handlerReturn r s).fsm = .idle := rfl
@[simp] theorem handlerReturn_regs (r : Regs) (s : State) : (handlerReturn r s).regs = some r := rfl
@[simp] theorem handlerReturn_pev (r : Regs) (s : State) : (handlerReturn r s).pev = none := rfl
@[simp] theorem takeDown_fsm (s : State) : (takeDown s).fsm = .down := rfl
@[simp] theorem takeDown_regs (s : State) : (takeDown s).regs = none := rfl
@[simp] theorem takeDown_pev (s : State) : (takeDown s).pev = none := rfl

/-! ### dispatch -/

theorem dispatch_none (r : Regs) (s : State) : dispatch none r s = { s with phase := .idle r } := rfl
theorem dispatch_some (e : Event) (r : Regs) (s : State) : dispatch (some e) r s = emit e r s := rfl

@[simp] theorem dispatch_flt (o : Option Event) (r : Regs) (s : State) : (dispatch o r s).flt = s.flt := by
  cases o <;> rfl
@[simp] theorem dispatch_refused (o : Option Event) (r : Regs) (s : State) : (dispatch o r s).refused = s.refused := by
  cases o <;> rfl
@[simp] theorem dispatch_cfg (o : Option Event) (r : Regs) (s : State) : (dispatch o r s).cfg = s.cfg := by
  cases o <;> rfl
@[simp] theorem dispatch_offer (o : Option Event) (r : Regs) (s : State) : (dispatch o r s).offer = s.offer := by
  cases o <;> rfl
@[simp] theorem dispatch_port (o : Option Event) (r : Regs) (s : State) : (dispatch o r s).port = s.port := by
  cases o <;> rfl
@[simp] theorem dispatch_pending (o : Option Event) (r : Regs) (s : State) : (dispatch o r s).pending = s.pending := by
  cases o <;> rfl
@[simp] theorem dispatch_input (o : Option Event) (r : Regs) (s : State) : (dispatch o r s).input = s.input := by
  cases o <;> rfl
@[simp] theorem dispatch_evh (o : Option Event) (r : Regs) (s : State) :
    (dispatch o r s).evh = s.evh ++ o.toList := by
  cases o <;> simp [dispatch]
@[simp] theorem dispatch_fsm (o : Option Event) (r : Regs) (s : State) :
    (dispatch o r s).fsm = if o.isSome then .busy else .idle := by
  cases o <;> rfl
@[simp] theorem dispatch_regs (o : Option Event) (r : Regs) (s : State) : (dispatch o r s).regs = some r := by
  cases o <;> rfl
@[simp] theorem dispatch_pev (o : Option Event) (r : Regs) (s : State) : (dispatch o r s).pev = o := by
  cases o <;> rfl

/-! ### The registers in each phase -/

theorem fsm_of_off {s : State} (h : s.phase = .off) : s.fsm = .off := by simp [State.fsm, h]
theorem regs_of_off {s : State} (h : s.phase = .off) : s.regs = none := by simp [State.regs, h]
theorem pev_of_off {s : State} (h : s.phase = .off) : s.pev = none := by simp [State.pev, h]
theorem fsm_of_idle {s : State} {r : Regs} (h : s.phase = .idle r) : s.fsm = .idle := by simp [State.fsm, h]
theorem regs_of_idle {s : State} {r : Regs} (h : s.phase = .idle r) : s.regs = some r := by simp [State.regs, h]
theorem pev_of_idle {s : State} {r : Regs} (h : s.phase = .idle r) : s.pev = none := by simp [State.pev, h]
theorem fsm_of_busy {s : State} {r : Regs} {e : Event} (h : s.phase = .busy r e) : s.fsm = .busy := by simp [State.fsm, h]
theorem regs_of_busy {s : State} {r : Regs} {e : Event} (h : s.phase = .busy r e) : s.regs = some r := by simp [State.regs, h]
theorem pev_of_busy {s : State} {r : Regs} {e : Event} (h : s.phase = .busy r e) : s.pev = some e := by simp [State.pev, h]
theorem fsm_of_down {s : State} (h : s.phase = .down) : s.fsm = .down := by simp [State.fsm, h]
theorem regs_of_down {s : State} (h : s.phase = .down) : s.regs = none := by simp [State.regs, h]
theorem pev_of_down {s : State} (h : s.phase = .down) : s.pev = none := by simp [State.pev, h]
theorem fsm_of_failed {s : State} (h : s.phase = .failed) : s.fsm = .failed := by simp [State.fsm, h]
theorem regs_of_failed {s : State} (h : s.phase = .failed) : s.regs = none := by simp [State.regs, h]
theorem pev_of_failed {s : State} (h : s.phase = .failed) : s.pev = none := by simp [State.pev, h]

/-- The FSM states name the phases. -/
theorem fsm_eq_off {s : State} : s.fsm = .off ↔ s.phase = .off := by
  cases h : s.phase <;> simp [State.fsm, h]
theorem fsm_eq_idle {s : State} : s.fsm = .idle ↔ ∃ r, s.phase = .idle r := by
  cases h : s.phase <;> simp [State.fsm, h]
theorem fsm_eq_busy {s : State} : s.fsm = .busy ↔ ∃ r e, s.phase = .busy r e := by
  cases h : s.phase <;> simp [State.fsm, h]
theorem fsm_eq_down {s : State} : s.fsm = .down ↔ s.phase = .down := by
  cases h : s.phase <;> simp [State.fsm, h]
theorem fsm_eq_failed {s : State} : s.fsm = .failed ↔ s.phase = .failed := by
  cases h : s.phase <;> simp [State.fsm, h]

end Sys2Proof.Machine
end

