-- ==== Sys2Proof/Laws/Ops.lean ====
section
/-! SUPPORT. For each shared operation and each meaning, one lemma that says everything it can do, which later proofs cite
instead of unfolding it; and the same for one step. -/

namespace Sys2Proof.Machine

/-! ### The datapath functions -/

/-- The shift step is the last pair followed by the new one (spec/41_rotation.md R101). -/
theorem shiftCode_eq_append (sc : ShiftCode) (pair : BitVec 2) : shiftCode sc pair = sc.extractLsb' 0 2 ++ pair := by
  revert sc pair; decide

/-- The history step drops the oldest code (R103). -/
theorem pushHistory_eq_append (hr : History) (sc : ShiftCode) : pushHistory hr sc = hr.extractLsb' 0 12 ++ sc := by
  apply BitVec.eq_of_getLsbD_eq
  intro i hi
  simp only [pushHistory, BitVec.getLsbD_or, BitVec.getLsbD_shiftLeft, BitVec.zeroExtend, BitVec.getLsbD_setWidth,
    BitVec.getLsbD_append, BitVec.getLsbD_extractLsb']
  by_cases h : i < 4
  · simp [h, hi]
  · simp [h, hi, show i - 4 < 12 by omega, BitVec.getLsbD_of_ge sc i (by omega)]

/-- The low byte after the history step is the last valid code followed by the new one (R55). -/
theorem pushHistory_low_byte (hr : History) (sc : ShiftCode) :
    (pushHistory hr sc).extractLsb' 0 8 = hr.extractLsb' 0 4 ++ sc := by
  apply BitVec.eq_of_getLsbD_eq
  intro i hi
  rw [pushHistory_eq_append]
  simp only [BitVec.getLsbD_append, BitVec.getLsbD_extractLsb']
  by_cases h : i < 4
  · simp [h, hi]
  · simp [h, hi, show i - 4 < 4 by omega, show i - 4 < 12 by omega]

/-- A table entry is 0 or 1. -/
theorem readVT_eq_one_iff (c : ShiftCode) : readVT c = 1#1 ↔ readVT c ≠ 0#1 := by
  revert c; decide

/-- SampleRotation does one of three things: writes TS (suppressed), writes SC alone (invalid code), or writes SC and HR and
matches the terminal byte (R105). -/
theorem sampleRotation_cases (cfg : Config) (b : Bundle) (r : Regs) :
    (b.p = cfg.pressedLevel ∧ sampleRotation cfg b r = ({ r with ts := b.t }, none)) ∨
    (b.p ≠ cfg.pressedLevel ∧ readVT (r.sc.extractLsb' 0 2 ++ (b.c ++ b.d)) = 0#1 ∧
      sampleRotation cfg b r = ({ r with sc := r.sc.extractLsb' 0 2 ++ (b.c ++ b.d) }, none)) ∨
    (b.p ≠ cfg.pressedLevel ∧ readVT (r.sc.extractLsb' 0 2 ++ (b.c ++ b.d)) = 1#1 ∧
      sampleRotation cfg b r =
        ({ r with
            sc := r.sc.extractLsb' 0 2 ++ (b.c ++ b.d)
            hr := pushHistory r.hr (r.sc.extractLsb' 0 2 ++ (b.c ++ b.d)) },
          terminalMatch (pushHistory r.hr (r.sc.extractLsb' 0 2 ++ (b.c ++ b.d))))) := by
  by_cases hp : b.p = cfg.pressedLevel
  · exact .inl ⟨hp, by simp [sampleRotation, isPressed, readPin, now, hp]⟩
  · have hs : sampleRotation cfg b r = decodeStep (b.c ++ b.d) r := by
      simp [sampleRotation, isPressed, readPin, pinPair, hp]
    by_cases hv : readVT (r.sc.extractLsb' 0 2 ++ (b.c ++ b.d)) = 0#1
    · exact .inr (.inl ⟨hp, hv, by simp only [hs, decodeStep, shiftCode_eq_append, hv, if_true]⟩)
    · exact .inr (.inr ⟨hp, (readVT_eq_one_iff _).2 hv, by
        simp only [hs, decodeStep, shiftCode_eq_append, hv, if_false]⟩)

/-- The terminal match reads the low byte alone (R104). -/
theorem terminalMatch_pushHistory (hr : History) (sc : ShiftCode) :
    terminalMatch (pushHistory hr sc) =
      if hr.extractLsb' 0 4 ++ sc = 0x2B#8 then some .cw
      else if hr.extractLsb' 0 4 ++ sc = 0x17#8 then some .ccw else none := by
  simp only [terminalMatch, pushHistory_low_byte, cwPattern, ccwPattern]

/-- The three results of the terminal match (R104). PUSH is none of them. -/
theorem terminalMatch_cases (hr : History) :
    (hr.extractLsb' 0 8 = 0x2B#8 ∧ terminalMatch hr = some .cw) ∨
    (hr.extractLsb' 0 8 = 0x17#8 ∧ terminalMatch hr = some .ccw) ∨
    (hr.extractLsb' 0 8 ≠ 0x2B#8 ∧ hr.extractLsb' 0 8 ≠ 0x17#8 ∧ terminalMatch hr = none) := by
  by_cases h1 : hr.extractLsb' 0 8 = 0x2B#8
  · exact .inl ⟨h1, if_pos h1⟩
  · by_cases h2 : hr.extractLsb' 0 8 = 0x17#8
    · exact .inr (.inl ⟨h2, (if_neg h1).trans (if_pos h2)⟩)
    · exact .inr (.inr ⟨h1, h2, (if_neg h1).trans (if_neg h2)⟩)

/-- The accept test as a proposition (spec/42_push.md R142). -/
theorem accepts_iff (cfg : Config) (b : Bundle) (ts : Nat) :
    accepts cfg b ts = true ↔
      (b.t : Int) - (ts : Int) > (cfg.pushTimeTicks : Int) ∧ b.p = cfg.pressedLevel := by
  simp [accepts, elapsed, now, isPressed, readPin]

/-- DebounceGate writes TS and nothing else (R143, R144). -/
@[simp] theorem debounceGate_regs (cfg : Config) (b : Bundle) (r : Regs) :
    (debounceGate cfg b r).1 = { r with ts := b.t } := rfl

/-- DebounceGate's outcome (R142). -/
theorem debounceGate_outcome (cfg : Config) (b : Bundle) (r : Regs) :
    (debounceGate cfg b r).2 =
      if (b.t : Int) - (r.ts : Int) > (cfg.pushTimeTicks : Int) ∧ b.p = cfg.pressedLevel then some .push else none := by
  simp only [debounceGate, accepts_iff]

/-! ### Notifications -/

/-- What a notification does in each FSM state (spec/43_dispatch.md R161). -/
theorem notify_cases (src : Source) (f : Config → Bundle → Regs → Regs × Option Event) (s : State) :
    (∃ r, s.phase = .idle r ∧ notify src f s = dispatch (f s.cfg s.port r).2 (f s.cfg s.port r).1 s) ∨
    (s.fsm = .busy ∧ notify src f s = hold src s) ∨
    (s.fsm = .down ∧ notify src f s = s) ∨
    ((s.fsm = .off ∨ s.fsm = .failed) ∧ notify src f s = raise .protocol s) := by
  cases h : s.phase <;> simp [notify, State.fsm, h]

/-! ### The meanings -/

theorem exec_rotClkf (s : State) :
    exec .rotClkf s =
      .next (if s.cfg.clkFallingDup then notify .clkFalling sampleRotation s else raise .protocol s) := by
  show execRotClkf s = _
  unfold execRotClkf
  split <;> rfl

theorem exec_rotClke (s : State) : exec .rotClke s = .next (notify .clkEither sampleRotation s) := rfl

theorem exec_rotDte (s : State) : exec .rotDte s = .next (notify .dtEither sampleRotation s) := rfl

theorem exec_pushF (s : State) : exec .pushF s = .next (notify .pushFalling debounceGate s) := rfl

/-- What the two cases of building leave (spec/70_reset_and_hazards.md R240). -/
theorem build_cases (s : State) :
    (s.port.k = true ∧ build s = { s with phase := .idle (constructedRegs s.port), cfg := s.offer }) ∨
    (s.port.k = false ∧ build s = { s with phase := .failed, flt := setFault .config s.flt }) := by
  cases h : s.port.k <;> simp [build, raise, h]

theorem exec_construct_cases (s : State) :
    ((s.fsm = .off ∨ s.fsm = .down) ∧ exec .construct s = .next (build s)) ∨
    ((s.fsm = .idle ∨ s.fsm = .busy ∨ s.fsm = .failed) ∧ exec .construct s = .next (raise .protocol s)) := by
  cases h : s.phase <;> simp [exec, execConstruct, State.fsm, h]

theorem exec_teardown_cases (s : State) :
    ((s.fsm = .idle ∨ s.fsm = .busy) ∧ exec .teardown s = .next (takeDown s)) ∨
    ((s.fsm ≠ .idle ∧ s.fsm ≠ .busy) ∧ exec .teardown s = .next s) := by
  cases h : s.phase <;> simp [exec, execTeardown, State.fsm, h]

theorem exec_hret_cases (s : State) :
    (∃ r e, s.phase = .busy r e ∧ exec .hret s = .next (handlerReturn r s)) ∨
    (s.fsm = .down ∧ exec .hret s = .next s) ∨
    ((s.fsm = .off ∨ s.fsm = .idle ∨ s.fsm = .failed) ∧ exec .hret s = .next (raise .protocol s)) := by
  cases h : s.phase <;> simp [exec, execHret, State.fsm, h]

/-- A rotation operation is a rotation notification, or the PROTOCOL fault of ROT.CLKF without its registration. -/
theorem exec_rotation_cases {i : Instr} (hi : i = .rotClkf ∨ i = .rotClke ∨ i = .rotDte) (s : State) :
    (∃ src, Config.hasSource s.cfg src = true ∧ exec i s = .next (notify src sampleRotation s)) ∨
    (i = .rotClkf ∧ s.cfg.clkFallingDup = false ∧ exec i s = .next (raise .protocol s)) := by
  rcases hi with rfl | rfl | rfl
  · cases h : s.cfg.clkFallingDup
    · exact .inr ⟨rfl, rfl, by simp [exec_rotClkf, h]⟩
    · exact .inl ⟨.clkFalling, by simp [Config.hasSource, h], by simp [exec_rotClkf, h]⟩
  · exact .inl ⟨.clkEither, rfl, rfl⟩
  · exact .inl ⟨.dtEither, rfl, rfl⟩

/-- Everything an operation can do to a state (spec/43_dispatch.md R161): the inversion of `exec`, in the terms of the shared
operations. -/
inductive Executed (s : State) : State → Prop where
  | unchanged : Executed s s
  | faulted : Executed s (raise .protocol s)
  | held (src : Source) (hb : s.fsm = .busy) (hs : Config.hasSource s.cfg src = true) : Executed s (hold src s)
  | built (h : s.fsm = .off ∨ s.fsm = .down) : Executed s (build s)
  | takenDown (h : s.fsm = .idle ∨ s.fsm = .busy) : Executed s (takeDown s)
  | returned (r : Regs) (e : Event) (h : s.phase = .busy r e) : Executed s (handlerReturn r s)
  | rotated (r : Regs) (h : s.phase = .idle r) :
    Executed s (dispatch (sampleRotation s.cfg s.port r).2 (sampleRotation s.cfg s.port r).1 s)
  | pushed (r : Regs) (h : s.phase = .idle r) :
    Executed s (dispatch (debounceGate s.cfg s.port r).2 (debounceGate s.cfg s.port r).1 s)

/-- A rotation notification in the terms of `Executed`. -/
theorem notify_rotation_executed {s : State} {src : Source} (hs : Config.hasSource s.cfg src = true) :
    Executed s (notify src sampleRotation s) := by
  rcases notify_cases src sampleRotation s with ⟨r, hp, e⟩ | ⟨hb, e⟩ | ⟨_, e⟩ | ⟨_, e⟩ <;> rw [e]
  · exact .rotated r hp
  · exact .held src hb hs
  · exact .unchanged
  · exact .faulted

/-- What an operation that answers a next state has done. -/
theorem exec_executed {i : Instr} {s t : State} (h : exec i s = .next t) : Executed s t := by
  cases i with
  | construct =>
    rcases exec_construct_cases s with ⟨a, e⟩ | ⟨_, e⟩ <;> rw [e] at h <;> cases h
    · exact .built a
    · exact .faulted
  | teardown =>
    rcases exec_teardown_cases s with ⟨a, e⟩ | ⟨_, e⟩ <;> rw [e] at h <;> cases h
    · exact .takenDown a
    · exact .unchanged
  | rotClkf =>
    rcases exec_rotation_cases (.inl rfl) s with ⟨src, hs, e⟩ | ⟨_, _, e⟩ <;> rw [e] at h <;> cases h
    · exact notify_rotation_executed hs
    · exact .faulted
  | rotClke => cases h; exact notify_rotation_executed (src := .clkEither) rfl
  | rotDte => cases h; exact notify_rotation_executed (src := .dtEither) rfl
  | pushF =>
    rw [exec_pushF] at h
    cases h
    rcases notify_cases .pushFalling debounceGate s with ⟨r, hp, e⟩ | ⟨hb, e⟩ | ⟨_, e⟩ | ⟨_, e⟩ <;> rw [e]
    · exact .pushed r hp
    · exact .held .pushFalling hb rfl
    · exact .unchanged
    · exact .faulted
  | hret =>
    rcases exec_hret_cases s with ⟨r, e, a, h'⟩ | ⟨_, h'⟩ | ⟨_, h'⟩ <;> rw [h'] at h <;> cases h
    · exact .returned r e a
    · exact .unchanged
    · exact .faulted

/-! ### The step -/

/-- A presented word is an operation presented now, or a pending notification taken up. -/
theorem fetch_word_cases {s u : State} {w : Opw} (h : fetch s = .word w u) :
    (∃ b rest, s.input = .present w b :: rest ∧ u = { s with port := b, input := rest }) ∨
    (∃ k b rest src, s.input = .run k b :: rest ∧ s.pending[k]? = some src ∧ w = encode (Source.op src) ∧
      u = { s with pending := s.pending.eraseIdx k, port := b, input := rest }) := by
  unfold fetch at h
  split at h
  · cases h
  · next w' b rest hin => cases h; exact .inl ⟨b, rest, hin, rfl⟩
  · cases h
  · cases h
  · next k b rest hin =>
    split at h
    · cases h
    · next src hsrc => cases h; exact .inr ⟨k, b, rest, src, hin, hsrc, rfl, rfl⟩

/-- A turn that presents nothing. -/
theorem fetch_quiet_cases {s t : State} (h : fetch s = .quiet t) :
    (s.input = [] ∧ t = s) ∨
    (∃ pin e rest, s.input = .edge pin e :: rest ∧ t = { pinEdge pin e s with input := rest }) ∨
    (∃ c rest, s.input = .offer c :: rest ∧ t = { s with offer := c, input := rest }) ∨
    (∃ k b rest, s.input = .run k b :: rest ∧ s.pending[k]? = none ∧ t = { s with input := rest }) := by
  unfold fetch at h
  split at h
  · next hin => cases h; exact .inl ⟨hin, rfl⟩
  · cases h
  · next pin e rest hin => cases h; exact .inr (.inl ⟨pin, e, rest, hin, rfl⟩)
  · next c rest hin => cases h; exact .inr (.inr (.inl ⟨c, rest, hin, rfl⟩))
  · next k b rest hin =>
    split at h
    · next hsrc => cases h; exact .inr (.inr (.inr ⟨k, b, rest, hin, hsrc, rfl⟩))
    · cases h

/-- Everything a step can do: a quiet turn, an operation executed, or a reserved word refused. -/
theorem step_cases {s t : State} (h : step s = .next t) :
    fetch s = .quiet t ∨ (∃ w u i, fetch s = .word w u ∧ decode w = .op i ∧ exec i u = .next t) ∨
    (∃ w u v, fetch s = .word w u ∧ decode w = .reserved v ∧ t = refuse u) := by
  unfold step at h
  split at h
  · next hf => cases h; exact .inl hf
  · next w u hf =>
    split at h
    · next i hd => exact .inr (.inl ⟨w, u, i, hf, hd, h⟩)
    · next v hd => cases h; exact .inr (.inr ⟨w, u, v, hf, hd, rfl⟩)

/-- A presented operation is executed. -/
theorem step_of_word {s u : State} {w : Opw} {i : Instr} (hf : fetch s = .word w u) (hd : decode w = .op i) :
    step s = exec i u := by
  simp only [step, hf, hd]

end Sys2Proof.Machine
end

