-- ==== Sys2Proof/Laws/PerInstr.lean ====
section
/-! SUPPORT. What holds of every operation as syntax, one lemma per constructor: its word is not a reserved one, and the word's
fields are the operation's class and source (spec/30_encoding.md R71 to R75). -/

namespace Sys2Proof.Laws.EncodedWord

/-- The word of an operation is well-formed, and its CLS and SRC fields are the operation's. -/
def Statement (i : Instr) : Prop :=
  Opw.wf (encode i) = true ∧ OpClass.ofBits (Opw.cls (encode i)) = i.opClass ∧ Opw.src (encode i) = i.srcBits

theorem construct : Statement .construct := by unfold Statement; decide
theorem teardown : Statement .teardown := by unfold Statement; decide
theorem rotClkf : Statement .rotClkf := by unfold Statement; decide
theorem rotClke : Statement .rotClke := by unfold Statement; decide
theorem rotDte : Statement .rotDte := by unfold Statement; decide
theorem pushF : Statement .pushF := by unfold Statement; decide
theorem hret : Statement .hret := by unfold Statement; decide

end Sys2Proof.Laws.EncodedWord
end

