-- ==== Sys2Proof/Laws/Step.lean ====
section
/-! SUPPORT. Runs of steps, and what every execution leaves of the environment's side. -/

namespace Sys2Proof.Machine

open Sys2Proof.Safety

@[simp] theorem runFor_zero (s : State) : runFor 0 s = .next s := rfl

/-- A run of `k + 1` steps whose first step answers `t` is a run of `k` steps from `t`. -/
theorem runFor_succ {s t : State} (k : Nat) (h : step s = .next t) : runFor (k + 1) s = runFor k t := by
  simp only [runFor, h]

/-- The word of a source's operation decodes to that operation. -/
theorem decode_encode_op (src : Source) : decode (encode (Source.op src)) = .op (Source.op src) := by
  cases src <;> rfl

/-- A notification leaves what is still to come, the offered configuration, the sample port and the mark. -/
theorem notify_environment (src : Source) (f : Config → Bundle → Regs → Regs × Option Event) (s : State) :
    (notify src f s).input = s.input ∧ (notify src f s).offer = s.offer ∧ (notify src f s).port = s.port ∧
      (notify src f s).cfg = s.cfg ∧ (notify src f s).refused = s.refused := by
  rcases notify_cases src f s with ⟨r, _, h⟩ | ⟨_, h⟩ | ⟨_, h⟩ | ⟨_, h⟩ <;> simp [h]

/-- Building leaves what is still to come, the offered configuration, the sample port, the mark and EVH. -/
theorem build_environment (s : State) :
    (build s).input = s.input ∧ (build s).offer = s.offer ∧ (build s).port = s.port ∧
      (build s).refused = s.refused ∧ (build s).evh = s.evh ∧ (build s).pending = s.pending := by
  rcases build_cases s with ⟨_, h⟩ | ⟨_, h⟩ <;> simp [h]

/-- Every operation answers a next state in every state, and no operation writes what is still to come, the offered
configuration, the sample port or the refusal mark. -/
theorem exec_answers (i : Instr) (s : State) :
    ∃ t, exec i s = .next t ∧ t.input = s.input ∧ t.offer = s.offer ∧ t.port = s.port ∧ t.refused = s.refused := by
  cases i with
  | construct =>
    rcases exec_construct_cases s with ⟨_, h⟩ | ⟨_, h⟩
    · exact ⟨_, h, by simp [build_environment]⟩
    · exact ⟨_, h, by simp⟩
  | teardown => rcases exec_teardown_cases s with ⟨_, h⟩ | ⟨_, h⟩ <;> exact ⟨_, h, by simp⟩
  | rotClkf =>
    refine ⟨_, exec_rotClkf s, ?_⟩
    split <;> simp [notify_environment]
  | rotClke => exact ⟨_, exec_rotClke s, by simp [notify_environment]⟩
  | rotDte => exact ⟨_, exec_rotDte s, by simp [notify_environment]⟩
  | pushF => exact ⟨_, exec_pushF s, by simp [notify_environment]⟩
  | hret => rcases exec_hret_cases s with ⟨_, _, _, h⟩ | ⟨_, h⟩ | ⟨_, h⟩ <;> exact ⟨_, h, by simp⟩

/-! ### The running handler -/

/-- No handler is waited for outside BUSY. -/
theorem runningHandler_of_not_busy {s : State} (h : s.fsm ≠ .busy) : s.runningHandler = none := by
  cases hp : s.phase with
  | busy r e => exact absurd (fsm_of_busy hp) h
  | off => simp [State.runningHandler, pev_of_off hp]
  | idle r => simp [State.runningHandler, pev_of_idle hp]
  | down => simp [State.runningHandler, pev_of_down hp]
  | failed => simp [State.runningHandler, pev_of_failed hp]

/-- While BUSY the handler is the one bound to the event being handled (spec/43_dispatch.md R162). -/
theorem runningHandler_of_busy {s : State} {r : Regs} {e : Event} (h : s.phase = .busy r e) :
    s.runningHandler = some (handlerFor s.cfg e) := by
  simp [State.runningHandler, pev_of_busy h]

/-! ### The time an operation reads -/

/-- SampleRotation writes TS exactly when it is suppressed (spec/41_rotation.md R100). -/
theorem sampleRotation_ts (cfg : Config) (b : Bundle) (r : Regs) :
    (sampleRotation cfg b r).1.ts = if isPressed cfg b then b.t else r.ts := by
  rcases sampleRotation_cases cfg b r with ⟨hp, e⟩ | ⟨hp, _, e⟩ | ⟨hp, _, e⟩ <;> simp [e, isPressed, readPin, hp]

/-- A notification leaves in TS the time it read, or the old TS where it read none. -/
theorem notify_ts {src : Source} {f : Config → Bundle → Regs → Regs × Option Event} {s : State} {reads : Bool}
    (hidle : ∀ r, s.phase = .idle r → (f s.cfg s.port r).1.ts = if reads then s.port.t else r.ts)
    (hother : s.fsm ≠ .idle → reads = false) (ts : Nat) (hts : ts ∈ (notify src f s).ts) :
    (reads = true ∧ ts = s.port.t) ∨ (reads = false ∧ ts ∈ s.ts) := by
  rcases notify_cases src f s with ⟨r, hp, e⟩ | ⟨hs, e⟩ | ⟨hs, e⟩ | ⟨hs, e⟩ <;> rw [e] at hts
  · have hts' : ts = (f s.cfg s.port r).1.ts := by simpa [State.ts, eq_comm] using hts
    rw [hidle r hp] at hts'
    cases reads
    · exact .inr ⟨rfl, by simp [State.ts, regs_of_idle hp, hts']⟩
    · exact .inl ⟨rfl, by simpa using hts'⟩
  · exact .inr ⟨hother (by simp [hs]), by simpa [State.ts] using hts⟩
  · exact .inr ⟨hother (by simp [hs]), hts⟩
  · exact .inr ⟨hother (by rcases hs with h | h <;> simp [h]), by simpa [State.ts] using hts⟩

/-- What an operation leaves in TS is the time it read, or the old TS where it read none. -/
theorem exec_ts {i : Instr} {s t : State} (h : exec i s = .next t) (ts : Nat) (hts : ts ∈ t.ts) :
    (readsTime s i = true ∧ ts = s.port.t) ∨ (readsTime s i = false ∧ ts ∈ s.ts) := by
  have rot : ∀ r, s.phase = .idle r → (sampleRotation s.cfg s.port r).1.ts =
      if (decide (s.fsm = .idle) && isPressed s.cfg s.port) then s.port.t else r.ts := by
    intro r hp
    simp [sampleRotation_ts, fsm_of_idle hp]
  have rotOther : s.fsm ≠ .idle → (decide (s.fsm = .idle) && isPressed s.cfg s.port) = false := by
    intro hn
    simp [hn]
  cases i with
  | rotClke => cases h; exact notify_ts rot rotOther ts hts
  | rotDte => cases h; exact notify_ts rot rotOther ts hts
  | rotClkf =>
    rw [exec_rotClkf] at h
    cases hc : s.cfg.clkFallingDup <;> rw [hc] at h <;> cases h
    · exact .inr ⟨by simp [readsTime, hc], by simpa [State.ts] using hts⟩
    · simpa [readsTime, hc] using notify_ts rot rotOther ts hts
  | pushF =>
    cases h
    exact notify_ts (fun r hp => by simp [readsTime, fsm_of_idle hp]) (fun hn => by simp [readsTime, hn]) ts hts
  | construct =>
    rcases exec_construct_cases s with ⟨ha, e⟩ | ⟨ha, e⟩ <;> rw [e] at h <;> cases h
    · rcases build_cases s with ⟨hk, e⟩ | ⟨_, e⟩ <;> rw [e] at hts
      · exact .inl ⟨by simp [readsTime, ha, hk],
          by simpa [State.ts, State.regs, constructedRegs, now, eq_comm] using hts⟩
      · simp [State.ts, State.regs] at hts
    · exact .inr ⟨by rcases ha with h | h | h <;> simp [readsTime, h], by simpa [State.ts] using hts⟩
  | teardown =>
    refine .inr ⟨rfl, ?_⟩
    rcases exec_teardown_cases s with ⟨_, e⟩ | ⟨_, e⟩ <;> rw [e] at h <;> cases h
    · simp [State.ts] at hts
    · exact hts
  | hret =>
    refine .inr ⟨rfl, ?_⟩
    rcases exec_hret_cases s with ⟨r, ev, hp, e⟩ | ⟨_, e⟩ | ⟨_, e⟩ <;> rw [e] at h <;> cases h
    · simpa [State.ts, regs_of_busy hp] using hts
    · exact hts
    · simpa [State.ts] using hts

/-- What a step leaves in TS is the time it read, or the old TS where it read none. -/
theorem step_ts {s t : State} (h : step s = .next t) (ts : Nat) (hts : ts ∈ t.ts) :
    timeRead s = some ts ∨ (timeRead s = none ∧ ts ∈ s.ts) := by
  rcases step_cases h with hf | ⟨w, u, i, hf, hd, he⟩ | ⟨w, u, v, hf, hd, rfl⟩
  · refine .inr ⟨by simp [timeRead, hf], ?_⟩
    rcases fetch_quiet_cases hf with ⟨_, rfl⟩ | ⟨_, _, _, _, rfl⟩ | ⟨_, _, _, rfl⟩ | ⟨_, _, _, _, _, rfl⟩ <;> exact hts
  · have hu : u.ts = s.ts := by
      rcases fetch_word_cases hf with ⟨_, _, _, rfl⟩ | ⟨_, _, _, _, _, _, _, rfl⟩ <;> rfl
    rcases exec_ts he ts hts with ⟨hr, rfl⟩ | ⟨hr, hm⟩
    · exact .inl (by simp [timeRead, hf, hd, hr, now])
    · exact .inr ⟨by simp [timeRead, hf, hd, hr], hu ▸ hm⟩
  · refine .inr ⟨by simp [timeRead, hf, hd], ?_⟩
    rcases fetch_word_cases hf with ⟨_, _, _, rfl⟩ | ⟨_, _, _, _, _, _, _, rfl⟩ <;> exact hts

/-! ### Runs -/

/-- One more step of any machine: stopped by a fault or a refusal, or followed by the rest of the run. -/
theorem core_run_succ (M : Host.Core) (k : Nat) (x : M.State) :
    (∀ y, M.step x = .next y → M.run (k + 1) x = M.run k y) ∧
      (∀ r, M.step x = .fault r → M.run (k + 1) x = .fault r) ∧
      (∀ r, M.step x = .refused r → M.run (k + 1) x = .refused r) := by
  refine ⟨?_, ?_, ?_⟩ <;> intro y h <;> simp only [Host.Core.run, h]

/-- The run is the host's run of the core. -/
theorem runFor_eq_core_run (k : Nat) (s : State) : runFor k s = Host.Core.run Sys2Proof.core k s := by
  induction k generalizing s with
  | zero => rfl
  | succ k ih =>
    cases h : step s with
    | next t =>
      rw [runFor_succ k h]
      exact (ih t).trans ((core_run_succ Sys2Proof.core k s).1 t h).symm
    | fault r =>
      have hl : runFor (k + 1) s = .fault r := by simp only [runFor, h]
      exact hl.trans ((core_run_succ Sys2Proof.core k s).2.1 r h).symm
    | refused r =>
      have hl : runFor (k + 1) s = .refused r := by simp only [runFor, h]
      exact hl.trans ((core_run_succ Sys2Proof.core k s).2.2 r h).symm

end Sys2Proof.Machine
end

