-- ==== Sys2Proof/Tests/Slice0.lean ====
section
/-! SUPPORT. The model's own tests. Expected results are those of spec/95_test_vectors.md (the vector is named) or of the rule
named. The witnesses show, for each statement with hypotheses, a concrete state that meets all of them together. -/

namespace Sys2Proof.Tests

open Sys2Proof Sys2Proof.Machine Sys2Proof.Safety

/-! ### Small states -/

/-- A bundle; PRESSED_LEVEL is 0 in the reference configuration, so `p = 1` is released. -/
def bnd (p c d : Level) (t : Nat) (k : Bool := false) : Bundle := { p := p, c := c, d := d, t := t, k := k }

/-- Registers with INITCLK = 1. -/
def rgs (sc : ShiftCode) (hr : History) (ts : Nat := 0) : Regs := { sc := sc, hr := hr, ts := ts, initclk := 1 }

/-- A state in a phase, about to execute an operation with a bundle, with turns to come. -/
def at_ (ph : Phase) (b : Bundle := bnd 1 0 0 0) (us : List Turn := []) : State :=
  { State.reset with phase := ph, port := b, input := us }

/-- The same state with the clk falling-edge registration. -/
def dup (s : State) : State := { s with cfg := { s.cfg with clkFallingDup := true } }

/-- The next state, if there is one. -/
def nextOf (o : Host.Outcome State Fault Refusal) : Option State :=
  match o with
  | .next s => some s
  | .fault _ => none
  | .refused _ => none

/-- What the vectors give of a result. -/
structure View where
  fsm : Fsm
  sc : Option ShiftCode
  hr : Option History
  ts : Option Nat
  pev : Option Event
  flt : BitVec 2
  refused : Bool
  evh : List Event
deriving DecidableEq, Repr

/-- A state in those terms. -/
def view (s : State) : View := ⟨s.fsm, s.sc, s.hr, s.ts, s.pev, s.flt, s.refused, s.evh⟩

/-- The result of an operation in those terms. -/
def result (i : Instr) (s : State) : Option View := (nextOf (exec i s)).map view

/-- IDLE with the ShiftCode and history most vectors start from. -/
def rest11 : Regs := rgs 0b1011#4 0x142B#16

/-! ### Well-formedness: each reserved word of R75 is refused -/

theorem test_wf_0010 : Opw.wf 0b0010#4 = false := by decide
theorem test_wf_0011 : Opw.wf 0b0011#4 = false := by decide
theorem test_wf_0111 : Opw.wf 0b0111#4 = false := by decide
theorem test_wf_1001 : Opw.wf 0b1001#4 = false := by decide
theorem test_wf_1010 : Opw.wf 0b1010#4 = false := by decide
theorem test_wf_1011 : Opw.wf 0b1011#4 = false := by decide
theorem test_wf_1101 : Opw.wf 0b1101#4 = false := by decide
theorem test_wf_1110 : Opw.wf 0b1110#4 = false := by decide
theorem test_wf_1111 : Opw.wf 0b1111#4 = false := by decide

/-! ### Decoding: CLS then SRC, bit by bit from R71 to R73 -/

theorem test_decode_construct : decode (0b00#2 ++ 0b00#2) = .op .construct := by decide
theorem test_decode_teardown : decode (0b00#2 ++ 0b01#2) = .op .teardown := by decide
theorem test_decode_rotClkf : decode (0b01#2 ++ 0b00#2) = .op .rotClkf := by decide
theorem test_decode_rotClke : decode (0b01#2 ++ 0b01#2) = .op .rotClke := by decide
theorem test_decode_rotDte : decode (0b01#2 ++ 0b10#2) = .op .rotDte := by decide
theorem test_decode_pushF : decode (0b10#2 ++ 0b00#2) = .op .pushF := by decide
theorem test_decode_hret : decode (0b11#2 ++ 0b00#2) = .op .hret := by decide
theorem test_decode_reserved_rot : decode (0b01#2 ++ 0b11#2) = .reserved 0b0111#4 := by decide
theorem test_table_word_pushF : decodeTableWord 8 0x08 = some .pushF := by decide
theorem test_table_word_reserved : decodeTableWord 8 0x0F = none := by decide

/-! ### One operation -/

/-- LC1. -/
theorem test_construct : result .construct (at_ .off (bnd 0 1 0 7 true)) =
    some ⟨.idle, some 0b0000#4, some 0x0000#16, some 7, none, 0b00#2, false, []⟩ := by decide

/-- LC2. -/
theorem test_construct_fails : result .construct (at_ .off (bnd 0 1 0 7 false)) =
    some ⟨.failed, none, none, none, none, 0b01#2, false, []⟩ := by decide

/-- LC6, its first operation. -/
theorem test_teardown_busy : result .teardown (at_ (.busy rest11 .cw)) =
    some ⟨.down, none, none, none, none, 0b00#2, false, []⟩ := by decide

/-- LC9. -/
theorem test_teardown_off : exec .teardown (at_ .off) = .next (at_ .off) := rfl

/-- V13. -/
theorem test_rotClkf_unregistered : result .rotClkf (at_ (.idle rest11) (bnd 1 0 1 0)) =
    some ⟨.idle, some 0b1011#4, some 0x142B#16, some 0, none, 0b10#2, false, []⟩ := by decide

/-- V14. -/
theorem test_rotClkf_registered : result .rotClkf (dup (at_ (.idle rest11) (bnd 1 0 1 0))) =
    some ⟨.idle, some 0b1101#4, some 0x42BD#16, some 0, none, 0b00#2, false, []⟩ := by decide

/-- V6. -/
theorem test_rotClke_ccw : result .rotClke (at_ (.idle (rgs 0b0001#4 0x0E81#16)) (bnd 1 1 1 0)) =
    some ⟨.busy, some 0b0111#4, some 0xE817#16, some 0, some .ccw, 0b00#2, false, [.ccw]⟩ := by decide

/-- V1: suppressed. -/
theorem test_rotClke_suppressed :
    result .rotClke (at_ (.idle (rgs 0b1011#4 0x142B#16 100)) (bnd 0 0 0 500)) =
      some ⟨.idle, some 0b1011#4, some 0x142B#16, some 500, none, 0b00#2, false, []⟩ := by decide

/-- V5. -/
theorem test_rotDte_cw : result .rotDte (at_ (.idle (rgs 0b0010#4 0x0142#16)) (bnd 1 1 1 0)) =
    some ⟨.busy, some 0b1011#4, some 0x142B#16, some 0, some .cw, 0b00#2, false, [.cw]⟩ := by decide

/-- V3: both pins changed. -/
theorem test_rotDte_both_changed : result .rotDte (at_ (.idle (rgs 0b0100#4 0x0014#16)) (bnd 1 1 1 0)) =
    some ⟨.idle, some 0b0011#4, some 0x0014#16, some 0, none, 0b00#2, false, []⟩ := by decide

/-- P1. -/
theorem test_pushF_accepted : result .pushF (at_ (.idle (rgs 0b0110#4 0x1234#16)) (bnd 0 0 0 401)) =
    some ⟨.busy, some 0b0110#4, some 0x1234#16, some 401, some .push, 0b00#2, false, [.push]⟩ := by decide

/-- P5: the elapsed time is negative. -/
theorem test_pushF_time_back : result .pushF (at_ (.idle (rgs 0b0110#4 0x1234#16 1000)) (bnd 0 0 0 900)) =
    some ⟨.idle, some 0b0110#4, some 0x1234#16, some 900, none, 0b00#2, false, []⟩ := by decide

/-- LC5. -/
theorem test_hret_busy : result .hret (at_ (.busy rest11 .cw)) =
    some ⟨.idle, some 0b1011#4, some 0x142B#16, some 0, none, 0b00#2, false, []⟩ := by decide

/-- LC4. -/
theorem test_hret_idle : result .hret (at_ (.idle rest11)) =
    some ⟨.idle, some 0b1011#4, some 0x142B#16, some 0, none, 0b10#2, false, []⟩ := by decide

/-- LC10, one of its words. -/
theorem test_reserved_word :
    (nextOf (step (at_ (.idle rest11) (bnd 1 0 0 0) [.present 0b1111#4 (bnd 1 0 0 0)]))).map view =
      some ⟨.idle, some 0b1011#4, some 0x142B#16, some 0, none, 0b00#2, true, []⟩ := by decide

/-- R210: a clk falling edge is two notifications where the doubled registration exists. -/
theorem test_edge_doubled :
    (nextOf (step (dup (at_ (.idle rest11) (bnd 1 0 0 0) [.edge .clk .falling])))).map State.pending =
      some [.clkFalling, .clkEither] := by decide

/-- R82, an example of the text syntax. -/
theorem test_assemble : assemble Config.reference "PUSH.F push=0 t=1200".toList = .op 0b1000#4 (bnd 0 0 0 1200) := by
  decide

/-! ### Witnesses: concrete states that meet the hypotheses of the statements -/

/-- A state in IDLE, released, with a code that is new and valid. -/
def turning : State := at_ (.idle rest11) (bnd 1 0 1 5)

/-- A state in IDLE, pressed. -/
def held : State := at_ (.idle rest11) (bnd 0 0 1 5)

/-- A state in IDLE with one turn to come. -/
def due (w : Opw) (b : Bundle) : State := at_ (.idle rest11) (bnd 1 0 0 0) [.present w b]

theorem witness_EncodeDecodeAgree_word : decode 0b1100#4 = .op .hret ∧ Instr.wf .hret = true ∧ 4 ≤ 4 := by decide

theorem witness_StepRunsDecodedOperation :
    (due 0b0110#4 (bnd 1 0 1 5)).input = .present 0b0110#4 (bnd 1 0 1 5) :: [] ∧
      decode 0b0110#4 = .op .rotDte ∧ Instr.wf .rotDte = true := by decide

theorem witness_FetchWordRunsNext : decodeTableWord 8 0x05 = some .rotClke := by decide

theorem witness_ReservedWordOnlySetsRefused :
    (due 0b1111#4 (bnd 1 0 0 0)).input = .present 0b1111#4 (bnd 1 0 0 0) :: [] ∧ 0b1111#4 ∈ reservedWords := by decide

theorem witness_NothingPresentedChangesNothing : State.reset.input = [] := rfl

theorem witness_EdgeMakesOnePendingPerRegistration :
    (dup (at_ (.idle rest11) (bnd 1 0 0 0) [.edge .clk .falling])).input = .edge .clk .falling :: [] ∧
      Running (dup (at_ (.idle rest11) (bnd 1 0 0 0) [.edge .clk .falling])) ∧
      (dup (at_ (.idle rest11))).cfg.clkFallingDup = true := by decide

/-- Two notifications are pending, and the younger one is taken up. -/
def twoPending : State :=
  { at_ (.idle rest11) (bnd 1 0 0 0) [.run 1 (bnd 1 0 1 5)] with pending := [.clkEither, .dtEither] }

theorem witness_PendingNotificationTakenUp :
    twoPending.input = .run 1 (bnd 1 0 1 5) :: [] ∧ twoPending.pending[1]? = some .dtEither := by decide

theorem witness_ResetValues_success :
    ((at_ .off (bnd 0 1 0 7 true)).fsm = .off ∨ (at_ .off (bnd 0 1 0 7 true)).fsm = .down) ∧
      (at_ .off (bnd 0 1 0 7 true)).port.k = true := by decide

theorem witness_ResetValues_failure :
    ((at_ .down (bnd 0 1 0 7 false)).fsm = .off ∨ (at_ .down (bnd 0 1 0 7 false)).fsm = .down) ∧
      (at_ .down (bnd 0 1 0 7 false)).port.k = false := by decide

theorem witness_ConstructInEveryState_success :
    (at_ .down (bnd 0 1 0 7 true)).fsm = .down ∧ (at_ .down (bnd 0 1 0 7 true)).port.k = true := by decide

theorem witness_ConstructInEveryState_failure :
    (at_ .off (bnd 0 1 0 7 false)).fsm = .off ∧ (at_ .off (bnd 0 1 0 7 false)).port.k = false := by decide

theorem witness_ConstructInEveryState_refused_states :
    (at_ (.idle rest11)).fsm = .idle ∧ (at_ (.busy rest11 .cw)).fsm = .busy ∧ (at_ .failed).fsm = .failed := by decide

theorem witness_TeardownInEveryState :
    Running (at_ (.busy rest11 .cw)) ∧ ¬ Running (at_ .down) ∧ ¬ Running (at_ .failed) := by decide

theorem witness_HretInEveryState :
    (at_ (.busy rest11 .cw)).phase = .busy rest11 .cw ∧ (at_ .down).fsm = .down ∧ (at_ .off).fsm = .off ∧
      (at_ (.idle rest11)).fsm = .idle ∧ (at_ .failed).fsm = .failed := by decide

/-- A state whose supervisor offers another configuration, with CONSTRUCT to come. -/
def reoffered : State :=
  { at_ .down (bnd 1 0 0 0) [.present 0b0000#4 (bnd 1 0 0 9 true)] with
    offer := { Config.reference with pushTimeTicks := 7 } }

theorem witness_ConfigChangedOnlyByConstruct :
    (nextOf (step reoffered)).map (fun t => decide (t.cfg ≠ reoffered.cfg)) = some true := by decide

theorem witness_SuppressedRotationWritesOnlyTs :
    IsRotation held.cfg .rotDte ∧ held.phase = .idle rest11 ∧ held.port.p = held.cfg.pressedLevel := by decide

theorem witness_RotationInIdle :
    IsRotation turning.cfg .rotClke ∧ turning.phase = .idle rest11 ∧ turning.port.p ≠ turning.cfg.pressedLevel ∧
      0b1101#4 = (((rest11.sc <<< 2) &&& 0xF#4) |||
        BitVec.zeroExtend 4 (turning.port.c ++ turning.port.d)) &&& 0xF#4 ∧
      0x42BD#16 = (rest11.hr <<< 4) ||| BitVec.zeroExtend 16 0b1101#4 := by decide

theorem witness_RotationInIdle_doubled :
    IsRotation (dup turning).cfg .rotClkf ∧ (dup turning).phase = .idle rest11 ∧
      (dup turning).port.p ≠ (dup turning).cfg.pressedLevel := by decide

/-- The codes the clauses of RotationInIdle tell apart: invalid, 0x2B, 0x17 and another valid one. -/
theorem witness_RotationInIdle_clauses :
    readVT 0b1111#4 = 0#1 ∧ (readVT 0b1011#4 = 1#1 ∧ (0x142B#16).extractLsb' 0 8 = 0x2B#8) ∧
      (readVT 0b0111#4 = 1#1 ∧ (0xE817#16).extractLsb' 0 8 = 0x17#8) ∧
      (readVT 0b1101#4 = 1#1 ∧ (0x42BD#16).extractLsb' 0 8 ≠ 0x2B#8 ∧ (0x42BD#16).extractLsb' 0 8 ≠ 0x17#8) := by
  decide

theorem witness_HistoryWrittenExactlyOnSinglePinChange :
    IsRotation turning.cfg .rotDte ∧ turning.phase = .idle rest11 ∧ turning.port.p ≠ turning.cfg.pressedLevel ∧
      (turning.port.c ≠ rest11.sc.extractLsb' 1 1 ↔ turning.port.d = rest11.sc.extractLsb' 0 1) := by decide

/-- The state before the event of V5, about to sample both pins high. -/
def beforeCw : State := at_ (.idle (rgs 0b0010#4 0x0142#16)) (bnd 1 1 1 0)

theorem witness_EventExactlyOnTerminalPair_cw :
    IsRotation beforeCw.cfg .rotDte ∧ beforeCw.phase = .idle (rgs 0b0010#4 0x0142#16) ∧
      beforeCw.port.p ≠ beforeCw.cfg.pressedLevel ∧ newCode 0b0010#4 beforeCw.port = 0b1011#4 ∧
      (0x0142#16).extractLsb' 0 4 = 0b0010#4 := by decide

theorem witness_EventExactlyOnTerminalPair_ccw :
    newCode 0b0001#4 beforeCw.port = 0b0111#4 ∧ (0x0E81#16).extractLsb' 0 4 = 0b0001#4 := by decide

theorem witness_EventOnlyOnArrivalAtBothHigh :
    Instr.rotDte ∈ [Instr.rotClkf, .rotClke, .rotDte] ∧
      (nextOf (exec .rotDte beforeCw)).map (fun t => decide (t.evh ≠ beforeCw.evh)) = some true := by decide

/-- CONSTRUCT, a repeat of the assumed pins, then a first valid code. -/
def firstValid : State :=
  at_ .off (bnd 0 0 0 0)
    [.present 0b0000#4 (bnd 1 1 0 0 true), .present 0b0101#4 (bnd 1 0 0 3), .present 0b0110#4 (bnd 1 1 0 5)]

theorem witness_FirstValidCodeAfterConstructIsSilent :
    (firstValid.fsm = .off ∨ firstValid.fsm = .down) ∧ (bnd 1 1 0 0 true).k = true ∧
      firstValid.input = .present 0b0000#4 (bnd 1 1 0 0 true) ::
        (([(0b0101#4, bnd 1 0 0 3)].map fun o => Turn.present o.1 o.2) ++ .present 0b0110#4 (bnd 1 1 0 5) :: []) ∧
      (∀ o ∈ [((0b0101#4 : Opw), bnd 1 0 0 3)], IsRotationWord firstValid.offer o.1) ∧
      IsRotationWord firstValid.offer 0b0110#4 ∧
      quietSamples firstValid.offer 0 ([((0b0101#4 : Opw), bnd 1 0 0 3)].map Prod.snd) ∧
      readVT (newCode 0 (bnd 1 1 0 5)) = 1#1 := by
  refine ⟨by decide, by decide, by decide, by decide, by decide, ?_, by decide⟩
  simp only [List.map, quietSamples]
  decide

/-- A sample that repeats the last pin pair is to come. -/
def repeated : State := due 0b0101#4 (bnd 1 1 1 5)

theorem witness_RepeatedSampleChangesNothingLater :
    repeated.phase = .idle rest11 ∧ repeated.input = .present 0b0101#4 (bnd 1 1 1 5) :: [] ∧
      IsRotationWord repeated.cfg 0b0101#4 ∧ (bnd 1 1 1 5).p ≠ repeated.cfg.pressedLevel ∧
      (bnd 1 1 1 5).c ++ (bnd 1 1 1 5).d = lastPair rest11.sc := by decide

theorem witness_HistoryHighNeverMatters :
    Alike sameButHistoryHigh (due 0b0101#4 (bnd 1 0 1 5))
        { due 0b0101#4 (bnd 1 0 1 5) with phase := .idle (rgs 0b1011#4 0xFF2B#16) } ∧
      (nextOf (step (due 0b0101#4 (bnd 1 0 1 5)))).isSome = true := by
  refine ⟨⟨?_, rfl, rfl, rfl, rfl, rfl, rfl, rfl⟩, by decide⟩
  exact ⟨rfl, by decide, rfl, rfl⟩

theorem witness_InitclkNeverMatters :
    Alike sameButInitclk (due 0b0101#4 (bnd 1 0 1 5))
        { due 0b0101#4 (bnd 1 0 1 5) with phase := .idle { rest11 with initclk := 0 } } ∧
      (nextOf (step (due 0b0101#4 (bnd 1 0 1 5)))).isSome = true :=
  ⟨⟨⟨rfl, rfl, rfl⟩, rfl, rfl, rfl, rfl, rfl, rfl, rfl⟩, by decide⟩

/-- The mirror of the state before the CW of V5, both with the sample to come. -/
theorem witness_MirrorSymmetry :
    Mirrored (at_ (.idle (rgs 0b0010#4 0x0142#16)) (bnd 1 0 0 0) [.present 0b0110#4 (bnd 1 1 1 0)])
        (at_ (.idle (rgs 0b0001#4 0x0281#16)) (bnd 1 0 0 0) [.present 0b0110#4 (bnd 1 1 1 0)]) ∧
      (nextOf (step (at_ (.idle (rgs 0b0010#4 0x0142#16)) (bnd 1 0 0 0)
        [.present 0b0110#4 (bnd 1 1 1 0)]))).map State.evh = some [.cw] := by
  refine ⟨⟨?_, rfl, rfl, rfl, rfl, rfl, rfl, rfl⟩, by decide⟩
  exact ⟨by decide, by decide, rfl⟩

/-- The four samples of a detent, or of its mirror, are to come (R128). -/
def detent (c1 d1 c3 d3 : Level) : State :=
  at_ (.idle rest11) (bnd 1 0 0 0)
    [.present 0b0101#4 (bnd 1 c1 d1 1), .present 0b0110#4 (bnd 1 0 0 2), .present 0b0101#4 (bnd 1 c3 d3 3),
      .present 0b0110#4 (bnd 1 1 1 4)]

theorem witness_CanonicalDetent_cw :
    (detent 0 1 1 0).phase = .idle rest11 ∧
      (∀ w ∈ [0b0101#4, 0b0110#4, 0b0101#4, 0b0110#4], IsRotationWord (detent 0 1 1 0).cfg w) ∧
      (∀ b ∈ [bnd 1 0 1 1, bnd 1 0 0 2, bnd 1 1 0 3, bnd 1 1 1 4], b.p ≠ (detent 0 1 1 0).cfg.pressedLevel) ∧
      (bnd 1 0 1 1).c ++ (bnd 1 0 1 1).d = 0b01#2 ∧ (bnd 1 0 0 2).c ++ (bnd 1 0 0 2).d = 0b00#2 ∧
      (bnd 1 1 0 3).c ++ (bnd 1 1 0 3).d = 0b10#2 ∧ (bnd 1 1 1 4).c ++ (bnd 1 1 1 4).d = 0b11#2 := by decide

theorem witness_CanonicalDetent_ccw :
    (detent 1 0 0 1).phase = .idle rest11 ∧
      (bnd 1 1 0 1).c ++ (bnd 1 1 0 1).d = 0b10#2 ∧ (bnd 1 0 0 2).c ++ (bnd 1 0 0 2).d = 0b00#2 ∧
      (bnd 1 0 1 3).c ++ (bnd 1 0 1 3).d = 0b01#2 ∧ (bnd 1 1 1 4).c ++ (bnd 1 1 1 4).d = 0b11#2 := by decide

/-- From rest at 11: a repeat, a suppressed sample, then both pins changed. -/
theorem witness_QuietSequencesNeverFire :
    (at_ (.idle rest11)).phase = .idle rest11 ∧
      (∀ o ∈ [((0b0101#4 : Opw), bnd 1 1 1 1), (0b0110#4, bnd 0 0 1 2), (0b0101#4, bnd 1 0 0 3)],
        IsRotationWord (at_ (.idle rest11)).cfg o.1) ∧
      quietSamples (at_ (.idle rest11)).cfg rest11.sc [bnd 1 1 1 1, bnd 0 0 1 2, bnd 1 0 0 3] := by
  refine ⟨rfl, by decide, ?_⟩
  simp only [quietSamples]
  decide

theorem witness_PushInIdle : held.phase = .idle rest11 := rfl

/-- A state in IDLE with TS = 100 at a time, pressed. -/
def pressedAt (t : Nat) : State := at_ (.idle (rgs 0b1011#4 0x142B#16 100)) (bnd 0 0 0 t)

theorem witness_WindowOpensStrictlyAfterThreshold :
    (pressedAt 500).phase = .idle (rgs 0b1011#4 0x142B#16 100) ∧
      (pressedAt 500).port.p = (pressedAt 500).cfg.pressedLevel ∧
      (pressedAt 500).port.t = 100 + (pressedAt 500).cfg.pushTimeTicks ∧
      (pressedAt 501).port.t = 100 + (pressedAt 501).cfg.pushTimeTicks + 1 := by decide

theorem witness_ReleasedPushOnlyWritesTs :
    turning.phase = .idle rest11 ∧ turning.port.p ≠ turning.cfg.pressedLevel := by decide

/-- CONSTRUCT at 7, then a press at 407, the last time that is inside the window. -/
def earlyPress : State :=
  at_ .off (bnd 0 0 0 0) [.present 0b0000#4 (bnd 1 1 0 7 true), .present 0b1000#4 (bnd 0 0 0 407)]

theorem witness_ConstructionShutsWindow :
    (earlyPress.fsm = .off ∨ earlyPress.fsm = .down) ∧
      earlyPress.input = .present 0b0000#4 (bnd 1 1 0 7 true) :: .present 0b1000#4 (bnd 0 0 0 407) :: [] ∧
      (bnd 1 1 0 7 true).k = true ∧ (bnd 0 0 0 407).t ≤ (bnd 1 1 0 7 true).t + earlyPress.offer.pushTimeTicks := by
  decide

/-- A rotation while held at 1000, then a press at 1400. -/
def turnedHeld : State :=
  at_ (.idle rest11) (bnd 0 0 0 0) [.present 0b0101#4 (bnd 0 0 1 1000), .present 0b1000#4 (bnd 0 0 0 1400)]

theorem witness_TurningWhileHeldShutsWindow :
    turnedHeld.phase = .idle rest11 ∧
      turnedHeld.input = .present 0b0101#4 (bnd 0 0 1 1000) :: .present 0b1000#4 (bnd 0 0 0 1400) :: [] ∧
      IsRotationWord turnedHeld.cfg 0b0101#4 ∧ (bnd 0 0 1 1000).p = turnedHeld.cfg.pressedLevel ∧
      (bnd 0 0 0 1400).t ≤ (bnd 0 0 1 1000).t + turnedHeld.cfg.pushTimeTicks := by decide

theorem witness_PushTrainInsideWindowIsSilent :
    (at_ (.idle rest11)).phase = .idle rest11 ∧
      gapsWithin (at_ (.idle rest11)).cfg.pushTimeTicks rest11.ts [bnd 0 0 0 400, bnd 1 0 0 800, bnd 0 0 0 801] := by
  refine ⟨rfl, ?_⟩
  simp only [gapsWithin]
  decide

/-- Two presses with the first handler's return between them. -/
def twoPresses (t3 : Nat) : State :=
  at_ (.idle rest11) (bnd 0 0 0 0)
    [.present 0b1000#4 (bnd 0 0 0 1000), .present 0b1100#4 (bnd 0 0 0 1001), .present 0b1000#4 (bnd 0 0 0 t3)]

theorem witness_TwoCleanPresses :
    (twoPresses 1401).phase = .idle rest11 ∧ (bnd 0 0 0 1000).p = (twoPresses 1401).cfg.pressedLevel ∧
      (bnd 0 0 0 1401).p = (twoPresses 1401).cfg.pressedLevel ∧
      (bnd 0 0 0 1000).t > rest11.ts + (twoPresses 1401).cfg.pushTimeTicks ∧
      (bnd 0 0 0 1401).t > (bnd 0 0 0 1000).t + (twoPresses 1401).cfg.pushTimeTicks ∧
      ¬ (bnd 0 0 0 1400).t > (bnd 0 0 0 1000).t + (twoPresses 1400).cfg.pushTimeTicks := by decide

theorem witness_PushAndRotationDatapathsDisjoint :
    (nextOf (exec .pushF held)).isSome = true ∧ (nextOf (exec .rotDte turning)).isSome = true ∧
      turning.port.p ≠ turning.cfg.pressedLevel := by decide

theorem witness_HeldNotificationChangesNoRegister :
    (at_ (.busy rest11 .cw)).fsm = .busy ∧ Config.hasSource (at_ (.busy rest11 .cw)).cfg .dtEither = true ∧
      Config.hasSource (dup (at_ (.busy rest11 .cw))).cfg .clkFalling = true := by decide

/-- BUSY with one notification waiting; another is held, the handler returns, and the younger one is taken up. -/
def heldThenRun (src : Source) : State :=
  { at_ (.busy rest11 .cw) (bnd 1 0 0 0)
      [.present (encode (Source.op src)) (bnd 1 1 0 1), .present 0b1100#4 (bnd 1 0 0 2), .run 1 (bnd 1 0 1 3)] with
    pending := [.dtEither] }

theorem witness_HeldNotificationRunsAfterReturn :
    (heldThenRun .pushFalling).phase = .busy rest11 .cw ∧
      Config.hasSource (heldThenRun .pushFalling).cfg .pushFalling = true ∧
      (heldThenRun .pushFalling).input = .present (encode (Source.op .pushFalling)) (bnd 1 1 0 1) ::
        .present 0b1100#4 (bnd 1 0 0 2) :: .run (heldThenRun .pushFalling).pending.length (bnd 1 0 1 3) :: [] := by decide

theorem witness_HeldNotificationRunsAfterReturn_doubled :
    (dup (heldThenRun .clkFalling)).phase = .busy rest11 .cw ∧
      Config.hasSource (dup (heldThenRun .clkFalling)).cfg .clkFalling = true ∧
      (dup (heldThenRun .clkFalling)).pending.length = 1 := by decide

/-- BUSY, with a push, an edge and a reserved word to come but no return. -/
def stuckBusy : State :=
  at_ (.busy rest11 .cw) (bnd 1 0 0 0)
    [.present 0b1000#4 (bnd 0 0 0 900), .edge .dt .rising, .present 0b1111#4 (bnd 1 0 0 0)]

theorem witness_BusyUntilReturnOrTeardown :
    stuckBusy.fsm = .busy ∧ PendingOk stuckBusy ∧
      stuckBusy.input.all (fun u => !presents 0b1100#4 u && !presents 0b0001#4 u) = true := by decide

theorem witness_DownDropsNotifications :
    (at_ .down).fsm = .down ∧ Config.hasSource (at_ .down).cfg .pushFalling = true := by decide

theorem witness_ProtocolFaultSetsOnlyItsBit :
    Instr.hret ∈ [Instr.rotClkf, .rotClke, .rotDte, .pushF, .hret] ∧ (at_ .off).fsm = .off ∧
      (at_ .failed).fsm = .failed ∧ (at_ (.idle rest11)).fsm = .idle ∧ (at_ .off).cfg.clkFallingDup = false := by decide

/-- The next state of a step that sets a fault bit beside one already set (V20). -/
theorem witness_FaultBitsNeverCleared :
    (nextOf (step { at_ .failed (bnd 1 1 0 0) [.present 0b0110#4 (bnd 1 1 0 0)] with flt := 0b01#2 })).map State.flt =
      some 0b11#2 := by decide

/-- A step that dispatches, taking FSM from IDLE to BUSY (V5). -/
theorem witness_EventHistoryGrowsExactlyByDispatch :
    (nextOf (step (at_ (.idle (rgs 0b0010#4 0x0142#16)) (bnd 1 0 0 0) [.present 0b0110#4 (bnd 1 1 1 0)]))).map
      (fun t => (t.fsm, t.evh)) = some (.busy, [.cw]) := by decide

/-- A step that moves FSM (LC5). -/
theorem witness_FsmMovesOnlyAlongTable :
    (nextOf (step (at_ (.busy rest11 .cw) (bnd 1 0 0 0) [.present 0b1100#4 (bnd 1 0 0 0)]))).map State.fsm =
      some .idle := by decide

/-- A step that sets the refusal mark. -/
theorem witness_RefusedExactlyOnReservedWord :
    (nextOf (step (due 0b1111#4 (bnd 1 0 0 0)))).map State.refused = some true ∧ 0b1111#4 ∈ reservedWords := by decide

/-- LC12: two causes of the PROTOCOL fault hold together, and the one bit is set. -/
theorem witness_AtMostOneMarkPerStep :
    (nextOf (step (at_ .off (bnd 1 0 0 0) [.present 0b0100#4 (bnd 1 0 0 0)]))).map
      (fun t => (t.flt, t.refused)) = some (0b10#2, false) := by decide

/-- The hypotheses of RotationFrame, PushFrame and LifecycleFrame. -/
theorem witness_frames :
    Instr.rotClke ∈ [Instr.rotClkf, .rotClke, .rotDte] ∧ (nextOf (exec .rotClke held)).isSome = true ∧
      held.port.p = held.cfg.pressedLevel ∧ (nextOf (exec .pushF held)).isSome = true ∧
      Instr.hret ∈ [Instr.construct, .teardown, .hret] ∧ (nextOf (exec .hret held)).isSome = true ∧
      (nextOf (exec .construct held)).isSome = true ∧ (nextOf (exec .teardown held)).isSome = true := by decide

theorem witness_HistoryOkKeptByStep :
    HistoryOk (due 0b0110#4 (bnd 1 0 1 5)) ∧ (nextOf (step (due 0b0110#4 (bnd 1 0 1 5)))).isSome = true := by
  refine ⟨?_, by decide⟩
  intro hr h
  cases h
  decide

theorem witness_RunEndedByTeardownOrHang_kept :
    Hang stuckBusy ∧ (∀ b rest, stuckBusy.input ≠ .present 0b0001#4 b :: rest) ∧
      stuckBusy.input.all (fun u => !presents 0b0001#4 u) = true := by
  refine ⟨by decide, ?_, by decide⟩
  intro b rest h
  simp [stuckBusy, at_] at h

/-- BUSY with a TEARDOWN to come. -/
def torn : State := at_ (.busy rest11 .cw) (bnd 1 0 0 0) [.present 0b0001#4 (bnd 1 0 0 0)]

theorem witness_RunEndedByTeardownOrHang_torn :
    Hang torn ∧ torn.input = .present 0b0001#4 (bnd 1 0 0 0) :: [] ∧ PendingOk torn := by decide

theorem witness_RunEndedByTeardownOrHang_ended : RunEnded (at_ (.idle rest11)) ∧ GoodEnd (at_ (.idle rest11)) := by decide

theorem witness_MarkedRunHasNoGoodEnd :
    { at_ (.idle rest11) with flt := 0b10#2 }.flt ≠ 0b00#2 ∧ { at_ .off with refused := true }.refused = true := by decide

/-- A word presented in a state keeps the duties, and one does not (R202). -/
theorem witness_DutiesKeptExactlyWithoutMark :
    (presentsLawfully (due 0b0110#4 (bnd 1 0 1 5)) = true ∧ (nextOf (step (due 0b0110#4 (bnd 1 0 1 5)))).isSome = true) ∧
      (presentsLawfully (due 0b1100#4 (bnd 1 0 0 0)) = false ∧
        (nextOf (step (due 0b1100#4 (bnd 1 0 0 0)))).isSome = true) := by decide

/-- The first three operations of Program 3. HRET reads no T, so the 0 its line leaves does not break the duty (R76). -/
def program3 : State :=
  at_ .off (bnd 0 0 0 0)
    [.present 0b0000#4 (bnd 0 1 0 0 true), .present 0b1000#4 (bnd 0 0 0 1000), .present 0b1100#4 (bnd 0 0 0 0)]

theorem witness_TimeDutyKeepsElapsedNonnegative : program3.ts = none ∧ timesRise 0 program3 = true := by decide

/-- The duty is broken by a T that an operation reads (P5). -/
theorem test_timesRise_broken : timesRise 1000 (due 0b1000#4 (bnd 0 0 0 900)) = false := by decide

/-- A dispatch and a return: the hypotheses of the clauses of DispatchCallsBoundHandler. -/
theorem witness_DispatchCallsBoundHandler :
    (nextOf (step (at_ (.idle (rgs 0b0010#4 0x0142#16)) (bnd 1 0 0 0) [.present 0b0110#4 (bnd 1 1 1 0)]))).map
        (fun t => decide (t.evh ≠ [])) = some true ∧
      (nextOf (step (at_ (.busy rest11 .cw) (bnd 1 0 0 0) [.present 0b1100#4 (bnd 1 0 0 0)]))).map State.evh = some [] ∧
      (at_ (.busy rest11 .cw)).fsm = .busy := by decide

theorem witness_PendingOkKeptByStep : PendingOk twoPending ∧ (nextOf (step twoPending)).isSome = true := by decide

end Sys2Proof.Tests
end

section
/-! Proofs of the statements about the state: what one step keeps, what reset and CONSTRUCT leave, what never matters. -/

namespace Sys2Proof.Proofs

open Sys2Proof.Machine Sys2Proof.Safety

/-! ### The decoder and the notification in each FSM state -/

/-- The reserved words are those the decoder gives no operation (spec/30_encoding.md R75). -/
theorem mem_reservedWords_iff (w : Opw) : w ∈ reservedWords ↔ decode w = .reserved w := by
  revert w; decide

theorem decode_reserved {w v : Opw} (h : decode w = .reserved v) : w ∈ reservedWords := by
  revert w v; decide

theorem not_mem_reservedWords {w : Opw} {i : Instr} (h : decode w = .op i) : w ∉ reservedWords := by
  rw [mem_reservedWords_iff, h]
  simp

/-- CONSTRUCT has one word (R74). -/
theorem eq_zero_of_decode_construct {w : Opw} (h : decode w = .op .construct) : w = 0b0000#4 := by
  revert w; decide

/-- The words of the table's ROT column decode to its operations (R74). -/
theorem decode_rotationWord {cfg : Config} {w : Opw} (h : IsRotationWord cfg w) :
    ∃ i, decode w = .op i ∧ IsRotation cfg i := by
  rcases h with rfl | rfl | ⟨rfl, hd⟩
  · exact ⟨.rotClke, rfl, .inl rfl⟩
  · exact ⟨.rotDte, rfl, .inr (.inl rfl)⟩
  · exact ⟨.rotClkf, rfl, .inr (.inr ⟨rfl, hd⟩)⟩

section Notify

variable (src : Source) (f : Config → Bundle → Regs → Regs × Option Event) {s : State} {r : Regs} {e : Event}

theorem notify_of_idle (h : s.phase = .idle r) :
    notify src f s = dispatch (f s.cfg s.port r).2 (f s.cfg s.port r).1 s := by
  simp only [notify, h]

theorem notify_of_busy (h : s.phase = .busy r e) : notify src f s = hold src s := by
  simp only [notify, h]

theorem notify_of_down (h : s.phase = .down) : notify src f s = s := by
  simp only [notify, h]

theorem notify_of_off (h : s.phase = .off) : notify src f s = raise .protocol s := by
  simp only [notify, h]

theorem notify_of_failed (h : s.phase = .failed) : notify src f s = raise .protocol s := by
  simp only [notify, h]

end Notify

/-! ### The lifecycle operations as equations -/

theorem exec_construct (s : State) :
    exec .construct s = .next (if s.fsm = .off ∨ s.fsm = .down then build s else raise .protocol s) := by
  rcases exec_construct_cases s with ⟨h, e⟩ | ⟨h, e⟩
  · rw [e, if_pos h]
  · rcases h with h | h | h <;> simp [e, h]

theorem exec_teardown (s : State) : exec .teardown s = .next (if Running s then takeDown s else s) := by
  rcases exec_teardown_cases s with ⟨h, e⟩ | ⟨h, e⟩
  · rw [e, if_pos h]
  · rw [e, if_neg (not_or.2 h)]

theorem exec_hret_of_busy {s : State} {r : Regs} {e : Event} (h : s.phase = .busy r e) :
    exec .hret s = .next (handlerReturn r s) := by
  simp only [exec, execHret, h]

theorem exec_hret_of_not_busy {s : State} (h : s.fsm ≠ .busy) :
    exec .hret s = .next (if s.fsm = .down then s else raise .protocol s) := by
  rcases exec_hret_cases s with ⟨r, e, hp, _⟩ | ⟨hd, he⟩ | ⟨hd, he⟩
  · exact absurd (fsm_of_busy hp) h
  · rw [he, if_pos hd]
  · rcases hd with hd | hd | hd <;> simp [he, hd]

theorem build_of_success {s : State} (h : s.port.k = true) :
    build s = { s with phase := .idle (constructedRegs s.port), cfg := s.offer } := by
  simp only [build, h, if_true]

theorem build_of_failure {s : State} (h : s.port.k = false) :
    build s = { raise .config s with phase := .failed } := by
  simp [build, h]

/-- SampleRotation as one equation: suppressed, invalid code, valid code (spec/41_rotation.md R105). -/
theorem sampleRotation_eq (cfg : Config) (b : Bundle) (r : Regs) :
    sampleRotation cfg b r =
      if b.p = cfg.pressedLevel then ({ r with ts := b.t }, none)
      else if readVT (newCode r.sc b) = 0#1 then ({ r with sc := newCode r.sc b }, none)
      else ({ r with sc := newCode r.sc b, hr := pushHistory r.hr (newCode r.sc b) },
        terminalMatch (pushHistory r.hr (newCode r.sc b))) := by
  rcases sampleRotation_cases cfg b r with ⟨hp, e⟩ | ⟨hp, hv, e⟩ | ⟨hp, hv, e⟩
  · rw [e, if_pos hp]
  · rw [e, if_neg hp, newCode, lastPair, if_pos hv]
  · rw [e, if_neg hp, newCode, lastPair, if_neg ((readVT_eq_one_iff _).1 hv)]

/-! ### The turns, one equation each -/

section Fetch

variable {s : State} {w : Opw} {b : Bundle} {pin : Pin} {e : Edge} {c : Config} {k : Nat} {src : Source}
  {rest : List Turn}

theorem fetch_nil (h : s.input = []) : fetch s = .quiet s := by
  simp only [fetch, h]

theorem fetch_present (h : s.input = .present w b :: rest) :
    fetch s = .word w { s with port := b, input := rest } := by
  simp only [fetch, h]

theorem fetch_edge (h : s.input = .edge pin e :: rest) :
    fetch s = .quiet { pinEdge pin e s with input := rest } := by
  simp only [fetch, h]

theorem fetch_offer (h : s.input = .offer c :: rest) : fetch s = .quiet { s with offer := c, input := rest } := by
  simp only [fetch, h]

theorem fetch_run_none (h : s.input = .run k b :: rest) (hk : s.pending[k]? = none) :
    fetch s = .quiet { s with input := rest } := by
  simp only [fetch, h, hk]

theorem fetch_run_some (h : s.input = .run k b :: rest) (hk : s.pending[k]? = some src) :
    fetch s =
      .word (encode (Source.op src)) { s with pending := s.pending.eraseIdx k, port := b, input := rest } := by
  simp only [fetch, h, hk]

end Fetch

theorem step_of_quiet {s t : State} (hf : fetch s = .quiet t) : step s = .next t := by
  simp only [step, hf]

theorem step_of_reserved {s u : State} {w v : Opw} (hf : fetch s = .word w u) (hd : decode w = .reserved v) :
    step s = .next (refuse u) := by
  simp only [step, hf, hd]

/-! ### What one step does to the block -/

/-- Two states whose block registers and configuration are the same; only the environment's side may differ. -/
structure SameBlock (s u : State) : Prop where
  phase : u.phase = s.phase
  flt : u.flt = s.flt
  refused : u.refused = s.refused
  evh : u.evh = s.evh
  cfg : u.cfg = s.cfg

theorem SameBlock.fsm {s u : State} (h : SameBlock s u) : u.fsm = s.fsm := by
  simp only [State.fsm, h.phase]

theorem SameBlock.pev {s u : State} (h : SameBlock s u) : u.pev = s.pev := by
  simp only [State.pev, h.phase]

theorem SameBlock.hr {s u : State} (h : SameBlock s u) : u.hr = s.hr := by
  simp only [State.hr, State.regs, h.phase]

/-- A turn that presents nothing leaves the block (spec/60_exceptions.md R225). -/
theorem fetch_quiet_sameBlock {s t : State} (h : fetch s = .quiet t) : SameBlock s t := by
  rcases fetch_quiet_cases h with ⟨_, rfl⟩ | ⟨_, _, _, _, rfl⟩ | ⟨_, _, _, rfl⟩ | ⟨_, _, _, _, _, rfl⟩ <;>
    constructor <;> rfl

/-- Presenting a word leaves the block; what it does is its operation's meaning. -/
theorem fetch_word_sameBlock {s u : State} {w : Opw} (h : fetch s = .word w u) : SameBlock s u := by
  rcases fetch_word_cases h with ⟨_, _, _, rfl⟩ | ⟨_, _, _, _, _, _, _, rfl⟩ <;> constructor <;> rfl

/-- What a step does to the block: nothing, a refusal, or one operation. -/
theorem step_effect {s t : State} (h : step s = .next t) :
    ∃ u, SameBlock s u ∧ (t = u ∨ t = refuse u ∨ Executed u t) := by
  rcases step_cases h with hf | ⟨w, u, i, hf, _, he⟩ | ⟨w, u, v, hf, _, rfl⟩
  · exact ⟨t, fetch_quiet_sameBlock hf, .inl rfl⟩
  · exact ⟨u, fetch_word_sameBlock hf, .inr (.inr (exec_executed he))⟩
  · exact ⟨u, fetch_word_sameBlock hf, .inr (.inl rfl)⟩

/-- Every step answers a next state. -/
theorem step_answers (s : State) : ∃ t, step s = .next t := by
  cases hf : fetch s with
  | quiet t => exact ⟨t, step_of_quiet hf⟩
  | word w u =>
    cases hd : decode w with
    | op i =>
      obtain ⟨t, ht, _⟩ := exec_answers i u
      exact ⟨t, by rw [step_of_word hf hd, ht]⟩
    | reserved v => exact ⟨refuse u, step_of_reserved hf hd⟩

/-- A property kept by every step holds along every run. -/
theorem runFor_keeps {P : State → Prop} (hstep : ∀ s t, P s → step s = .next t → P t) (k : Nat) :
    ∀ s, P s → ∃ t, runFor k s = .next t ∧ P t := by
  induction k with
  | zero => exact fun s hs => ⟨s, rfl, hs⟩
  | succ k ih =>
    intro s hs
    obtain ⟨t, ht⟩ := step_answers s
    rw [runFor_succ k ht]
    exact ih t (hstep s t hs ht)

/-- A run of `j + k` steps is a run of `j` steps and one of `k` steps from where it ends. -/
theorem runFor_add (j k : Nat) : ∀ {s t : State}, runFor j s = .next t → runFor (j + k) s = runFor k t := by
  induction j with
  | zero => intro s t h; cases h; rw [Nat.zero_add]
  | succ j ih =>
    intro s t h
    obtain ⟨u, hu⟩ := step_answers s
    rw [runFor_succ j hu] at h
    rw [Nat.succ_add, runFor_succ (j + k) hu, ih h]

/-! ### Two states alike but for registers that never matter -/

theorem phaseRel_cases {R : Regs → Regs → Prop} {E : Event → Event} {p q : Phase} (h : phaseRel R E p q) :
    (p = .off ∧ q = .off) ∨ (∃ a b, p = .idle a ∧ q = .idle b ∧ R a b) ∨
      (∃ a b e, p = .busy a e ∧ q = .busy b (E e) ∧ R a b) ∨ (p = .down ∧ q = .down) ∨
      (p = .failed ∧ q = .failed) := by
  unfold phaseRel at h
  split at h
  · exact .inl ⟨rfl, rfl⟩
  · next a b => exact .inr (.inl ⟨a, b, rfl, rfl, h⟩)
  · next a e b f =>
    obtain ⟨hab, rfl⟩ := h
    exact .inr (.inr (.inl ⟨a, b, e, rfl, rfl, hab⟩))
  · exact .inr (.inr (.inr (.inl ⟨rfl, rfl⟩)))
  · exact .inr (.inr (.inr (.inr ⟨rfl, rfl⟩)))
  · exact h.elim

theorem phaseRel_busy {R : Regs → Regs → Prop} {E : Event → Event} {a : Regs} {e : Event} {q : Phase}
    (h : phaseRel R E (.busy a e) q) : ∃ b, q = .busy b (E e) ∧ R a b := by
  cases q with
  | busy b f =>
    obtain ⟨hab, rfl⟩ := h
    exact ⟨b, rfl, hab⟩
  | _ => exact False.elim h

/-- A datapath function takes related registers to related ones, with the same outcome. -/
def Respects (R : Regs → Regs → Prop) (f : Config → Bundle → Regs → Regs × Option Event) : Prop :=
  ∀ cfg b x y, R x y → R (f cfg b x).1 (f cfg b y).1 ∧ (f cfg b y).2 = (f cfg b x).2

/-- What a relation on registers must do for every step to keep two states alike. -/
structure KeptByDatapath (R : Regs → Regs → Prop) : Prop where
  refl : ∀ r, R r r
  rotation : Respects R sampleRotation
  push : Respects R debounceGate

section Alike

variable {R : Regs → Regs → Prop} {s t : State}

theorem alike_fsm (h : Alike R s t) : t.fsm = s.fsm := by
  rcases phaseRel_cases h.phase with ⟨hs, ht⟩ | ⟨a, b, hs, ht, _⟩ | ⟨a, b, e, hs, ht, _⟩ | ⟨hs, ht⟩ | ⟨hs, ht⟩ <;>
    simp only [State.fsm, hs, ht]

theorem alike_registered (h : Alike R s t) (src : Source) : registered t src = registered s src := by
  rcases phaseRel_cases h.phase with ⟨hs, ht⟩ | ⟨a, b, hs, ht, _⟩ | ⟨a, b, e, hs, ht, _⟩ | ⟨hs, ht⟩ | ⟨hs, ht⟩ <;>
    simp only [registered, hs, ht, h.cfg]

theorem alike_raise (k : FaultKind) (h : Alike R s t) : Alike R (raise k s) (raise k t) :=
  { h with flt := congrArg (setFault k) h.flt }

theorem alike_refuse (h : Alike R s t) : Alike R (refuse s) (refuse t) :=
  { h with refused := rfl }

theorem alike_hold (src : Source) (h : Alike R s t) : Alike R (hold src s) (hold src t) :=
  { h with pending := congrArg (· ++ [src]) h.pending }

theorem alike_takeDown (h : Alike R s t) : Alike R (takeDown s) (takeDown t) :=
  { h with phase := trivial, pending := rfl }

theorem alike_handlerReturn {a b : Regs} (hab : R a b) (h : Alike R s t) :
    Alike R (handlerReturn a s) (handlerReturn b t) :=
  { h with phase := hab }

theorem alike_dispatch {a b : Regs} (o : Option Event) (hab : R a b) (h : Alike R s t) :
    Alike R (dispatch o a s) (dispatch o b t) := by
  cases o with
  | none => exact { h with phase := hab }
  | some e => exact { h with phase := ⟨hab, rfl⟩, evh := congrArg (· ++ [e]) h.evh }

theorem alike_pinEdge (pin : Pin) (e : Edge) (h : Alike R s t) : Alike R (pinEdge pin e s) (pinEdge pin e t) :=
  { h with pending := by simp only [pinEdge_pending, h.pending, alike_registered h] }

theorem alike_build (hrefl : ∀ r, R r r) (h : Alike R s t) (hport : t.port = s.port) :
    Alike R (build s) (build t) := by
  cases hk : s.port.k with
  | true =>
    rw [build_of_success hk, build_of_success (hport ▸ hk), hport]
    exact { h with phase := hrefl _, cfg := h.offer }
  | false =>
    rw [build_of_failure hk, build_of_failure (hport ▸ hk)]
    exact { alike_raise .config h with phase := trivial }

theorem alike_notify {f : Config → Bundle → Regs → Regs × Option Event} (hf : Respects R f) (src : Source)
    (h : Alike R s t) (hport : t.port = s.port) : Alike R (notify src f s) (notify src f t) := by
  rcases phaseRel_cases h.phase with ⟨hs, ht⟩ | ⟨a, b, hs, ht, hab⟩ | ⟨a, b, e, hs, ht, _⟩ | ⟨hs, ht⟩ | ⟨hs, ht⟩
  · rw [notify_of_off _ _ hs, notify_of_off _ _ ht]
    exact alike_raise _ h
  · obtain ⟨hregs, hout⟩ := hf s.cfg s.port a b hab
    rw [notify_of_idle _ _ hs, notify_of_idle _ _ ht, h.cfg, hport, hout]
    exact alike_dispatch _ hregs h
  · rw [notify_of_busy _ _ hs, notify_of_busy _ _ ht]
    exact alike_hold _ h
  · rw [notify_of_down _ _ hs, notify_of_down _ _ ht]
    exact h
  · rw [notify_of_failed _ _ hs, notify_of_failed _ _ ht]
    exact alike_raise _ h

theorem alike_ite {p : Prop} [Decidable p] {s₁ t₁ s₂ t₂ : State} (h₁ : Alike R s₁ t₁) (h₂ : Alike R s₂ t₂) :
    Alike R (if p then s₁ else s₂) (if p then t₁ else t₂) := by
  split
  · exact h₁
  · exact h₂

theorem alike_exec_hret (h : Alike R s t) :
    ∃ s' t', exec .hret s = .next s' ∧ exec .hret t = .next t' ∧ Alike R s' t' := by
  by_cases hb : s.fsm = .busy
  · obtain ⟨a, e, hs⟩ := fsm_eq_busy.1 hb
    obtain ⟨b, ht, hab⟩ := phaseRel_busy (hs ▸ h.phase)
    exact ⟨_, _, exec_hret_of_busy hs, exec_hret_of_busy ht, alike_handlerReturn hab h⟩
  · have hb' : t.fsm ≠ .busy := alike_fsm h ▸ hb
    refine ⟨_, _, exec_hret_of_not_busy hb, exec_hret_of_not_busy hb', ?_⟩
    rw [alike_fsm h]
    exact alike_ite h (alike_raise _ h)

/-- An operation keeps two states alike that read the same sample bundle. -/
theorem alike_exec (hR : KeptByDatapath R) (i : Instr) (h : Alike R s t) (hport : t.port = s.port) :
    ∃ s' t', exec i s = .next s' ∧ exec i t = .next t' ∧ Alike R s' t' := by
  cases i with
  | construct =>
    refine ⟨_, _, exec_construct s, exec_construct t, ?_⟩
    rw [alike_fsm h]
    exact alike_ite (alike_build hR.refl h hport) (alike_raise _ h)
  | teardown =>
    refine ⟨_, _, exec_teardown s, exec_teardown t, ?_⟩
    simp only [Running, alike_fsm h]
    exact alike_ite (alike_takeDown h) h
  | rotClkf =>
    refine ⟨_, _, exec_rotClkf s, exec_rotClkf t, ?_⟩
    rw [h.cfg]
    exact alike_ite (alike_notify hR.rotation _ h hport) (alike_raise _ h)
  | rotClke => exact ⟨_, _, exec_rotClke s, exec_rotClke t, alike_notify hR.rotation _ h hport⟩
  | rotDte => exact ⟨_, _, exec_rotDte s, exec_rotDte t, alike_notify hR.rotation _ h hport⟩
  | pushF => exact ⟨_, _, exec_pushF s, exec_pushF t, alike_notify hR.push _ h hport⟩
  | hret => exact alike_exec_hret h

/-- Alike states take the same turn. A presented word brings its own bundle, so that from there on the ports are equal. -/
theorem alike_fetch (h : Alike R s t) :
    (∃ s' t', fetch s = .quiet s' ∧ fetch t = .quiet t' ∧ Alike R s' t') ∨
    (∃ w u v, fetch s = .word w u ∧ fetch t = .word w v ∧ Alike R u v ∧ v.port = u.port) := by
  cases hs : s.input with
  | nil => exact .inl ⟨s, t, fetch_nil hs, fetch_nil (h.input.trans hs), h⟩
  | cons turn rest =>
    have ht : t.input = turn :: rest := h.input.trans hs
    cases turn with
    | present w b => exact .inr ⟨w, _, _, fetch_present hs, fetch_present ht, { h with input := rfl }, rfl⟩
    | edge pin e =>
      exact .inl ⟨_, _, fetch_edge hs, fetch_edge ht, { alike_pinEdge pin e h with input := rfl }⟩
    | offer c => exact .inl ⟨_, _, fetch_offer hs, fetch_offer ht, { h with input := rfl, offer := rfl }⟩
    | run k b =>
      have hk : t.pending[k]? = s.pending[k]? := congrArg (·[k]?) h.pending
      cases hsrc : s.pending[k]? with
      | none =>
        exact .inl ⟨_, _, fetch_run_none hs hsrc, fetch_run_none ht (hk.trans hsrc), { h with input := rfl }⟩
      | some src =>
        exact .inr ⟨_, _, _, fetch_run_some hs hsrc, fetch_run_some ht (hk.trans hsrc),
          { h with input := rfl, pending := congrArg (List.eraseIdx · k) h.pending }, rfl⟩

/-- Every step keeps two states alike whose registers differ in what the datapath functions keep apart. -/
theorem alike_step (hR : KeptByDatapath R) {s' : State} (h : Alike R s t) (hs : step s = .next s') :
    ∃ t', step t = .next t' ∧ Alike R s' t' := by
  rcases alike_fetch h with ⟨u, v, hu, hv, huv⟩ | ⟨w, u, v, hu, hv, huv, hport⟩
  · rw [step_of_quiet hu] at hs
    cases hs
    exact ⟨v, step_of_quiet hv, huv⟩
  · cases hd : decode w with
    | op i =>
      obtain ⟨u', v', hu', hv', h'⟩ := alike_exec hR i huv hport
      rw [step_of_word hu hd, hu'] at hs
      cases hs
      exact ⟨v', (step_of_word hv hd).trans hv', h'⟩
    | reserved x =>
      rw [step_of_reserved hu hd] at hs
      cases hs
      exact ⟨refuse v, step_of_reserved hv hd, alike_refuse huv⟩

end Alike

/-- The terminal match of the history step reads HR[3:0] alone, so HR[15:8] enters no outcome and no later low byte. -/
theorem respects_rotation_historyHigh : Respects sameButHistoryHigh sampleRotation := by
  rintro cfg b x y ⟨hsc, hhr, hts, hclk⟩
  have hlow : y.hr.extractLsb' 0 4 = x.hr.extractLsb' 0 4 := by
    have h := congrArg (BitVec.extractLsb' 0 4) hhr
    rwa [BitVec.extractLsb'_extractLsb'_of_le (by decide), BitVec.extractLsb'_extractLsb'_of_le (by decide)] at h
  rw [sampleRotation_eq, sampleRotation_eq, hsc]
  split_ifs
  · exact ⟨⟨rfl, hhr, rfl, hclk⟩, rfl⟩
  · exact ⟨⟨rfl, hhr, hts, hclk⟩, rfl⟩
  · refine ⟨⟨rfl, ?_, hts, hclk⟩, ?_⟩
    · simp only [pushHistory_low_byte, hlow]
    · simp only [terminalMatch_pushHistory, hlow]

theorem keptByDatapath_historyHigh : KeptByDatapath sameButHistoryHigh where
  refl _ := ⟨rfl, rfl, rfl, rfl⟩
  rotation := respects_rotation_historyHigh
  push := by
    rintro cfg b x y ⟨hsc, hhr, hts, hclk⟩
    exact ⟨⟨hsc, hhr, rfl, hclk⟩, by simp only [debounceGate_outcome, hts]⟩

theorem keptByDatapath_initclk : KeptByDatapath sameButInitclk where
  refl _ := ⟨rfl, rfl, rfl⟩
  rotation := by
    rintro cfg b x y ⟨hsc, hhr, hts⟩
    rw [sampleRotation_eq, sampleRotation_eq, hsc, hhr]
    split_ifs
    · exact ⟨⟨rfl, rfl, rfl⟩, rfl⟩
    · exact ⟨⟨rfl, rfl, hts⟩, rfl⟩
    · exact ⟨⟨rfl, rfl, hts⟩, rfl⟩
  push := by
    rintro cfg b x y ⟨hsc, hhr, hts⟩
    exact ⟨⟨hsc, hhr, rfl⟩, by simp only [debounceGate_outcome, hts]⟩

/-- Settles O28: HR[15:8] is kept apart by both datapath functions (R126). -/
theorem historyHighNeverMatters : Obligations.HistoryHighNeverMatters :=
  fun _ _ _ => alike_step keptByDatapath_historyHigh

/-- Settles O29: INITCLK is kept apart by both datapath functions (R28). -/
theorem initclkNeverMatters : Obligations.InitclkNeverMatters :=
  fun _ _ _ => alike_step keptByDatapath_initclk

/-! ### The invariant of HR -/

/-- What R38 says of a value of HR. -/
abbrev NibblesOk (hr : History) : Prop :=
  ZeroOrValid (hr.extractLsb' 0 4) ∧ ZeroOrValid (hr.extractLsb' 4 4) ∧
    (hr.extractLsb' 4 4 ≠ 0 → hr.extractLsb' 0 4 ≠ 0)

theorem historyOk_iff (s : State) : HistoryOk s ↔ ∀ hr ∈ s.hr, NibblesOk hr := Iff.rfl

theorem historyOk_of_regs_none {s : State} (h : s.regs = none) : HistoryOk s := by
  simp [historyOk_iff, State.hr, h]

theorem historyOk_of_regs_some {s : State} {r : Regs} (h : s.regs = some r) : HistoryOk s ↔ NibblesOk r.hr := by
  simp [historyOk_iff, State.hr, h]

/-- The history step puts the new code into HR[3:0] (R103). -/
theorem pushHistory_nibble0 (hr : History) (sc : ShiftCode) : (pushHistory hr sc).extractLsb' 0 4 = sc := by
  rw [pushHistory_eq_append, BitVec.extractLsb'_append_eq_right]

/-- The history step moves the last valid code to HR[7:4] (R103). -/
theorem pushHistory_nibble1 (hr : History) (sc : ShiftCode) :
    (pushHistory hr sc).extractLsb' 4 4 = hr.extractLsb' 0 4 := by
  rw [pushHistory_eq_append, BitVec.extractLsb'_append_eq_of_le (by decide),
    BitVec.extractLsb'_extractLsb'_of_le (by decide)]

theorem ne_zero_of_valid {c : ShiftCode} (h : readVT c = 1#1) : c ≠ 0 := by
  revert c; decide

/-- Recording a valid code keeps the invariant: the new HR[3:0] is valid, hence not 0. -/
theorem nibblesOk_pushHistory {hr : History} {sc : ShiftCode} (h : NibblesOk hr) (hv : readVT sc = 1#1) :
    NibblesOk (pushHistory hr sc) := by
  rw [NibblesOk, pushHistory_nibble0, pushHistory_nibble1]
  exact ⟨.inr hv, h.1, fun _ => ne_zero_of_valid hv⟩

theorem nibblesOk_sampleRotation {r : Regs} (cfg : Config) (b : Bundle) (h : NibblesOk r.hr) :
    NibblesOk (sampleRotation cfg b r).1.hr := by
  rcases sampleRotation_cases cfg b r with ⟨_, e⟩ | ⟨_, _, e⟩ | ⟨_, hv, e⟩ <;> rw [e]
  · exact h
  · exact h
  · exact nibblesOk_pushHistory h hv

theorem historyOk_build (s : State) : HistoryOk (build s) := by
  have hz : NibblesOk 0x0000#16 := by decide
  rcases build_cases s with ⟨_, e⟩ | ⟨_, e⟩ <;> rw [e]
  · exact (historyOk_of_regs_some (r := constructedRegs s.port) rfl).2 hz
  · exact historyOk_of_regs_none rfl

theorem historyOk_executed {u t : State} (hu : HistoryOk u) (h : Executed u t) : HistoryOk t := by
  cases h with
  | unchanged => exact hu
  | faulted => exact hu
  | held => exact hu
  | built => exact historyOk_build u
  | takenDown => exact historyOk_of_regs_none rfl
  | returned r e hp =>
    rw [historyOk_of_regs_some (regs_of_busy hp)] at hu
    exact (historyOk_of_regs_some (handlerReturn_regs r u)).2 hu
  | rotated r hp =>
    rw [historyOk_of_regs_some (regs_of_idle hp)] at hu
    exact (historyOk_of_regs_some (dispatch_regs _ _ u)).2 (nibblesOk_sampleRotation _ _ hu)
  | pushed r hp =>
    rw [historyOk_of_regs_some (regs_of_idle hp)] at hu
    exact (historyOk_of_regs_some (dispatch_regs _ _ u)).2 hu

/-- Settles O57: HR holds no value at power-on. -/
theorem historyOkAtReset : Obligations.HistoryOkAtReset :=
  historyOk_of_regs_none rfl

/-- Settles O58: a step writes HR only by construction, to 0, and by recording a valid code. -/
theorem historyOkKeptByStep : Obligations.HistoryOkKeptByStep := by
  intro s t hs h
  obtain ⟨u, hu, ht⟩ := step_effect h
  have hok : HistoryOk u := by rwa [HistoryOk, hu.hr]
  rcases ht with rfl | rfl | he
  · exact hok
  · exact hok
  · exact historyOk_executed hok he

/-! ### The fault bits and the refusal mark -/

/-- An operation leaves FLT or sets one bit of it (spec/60_exceptions.md R200). -/
theorem executed_flt {u t : State} (h : Executed u t) : t.flt = u.flt ∨ ∃ k, t.flt = setFault k u.flt := by
  cases h with
  | unchanged => exact .inl rfl
  | faulted => exact .inr ⟨.protocol, rfl⟩
  | held => exact .inl rfl
  | built =>
    rcases build_cases u with ⟨_, e⟩ | ⟨_, e⟩ <;> rw [e]
    · exact .inl rfl
    · exact .inr ⟨.config, rfl⟩
  | takenDown => exact .inl rfl
  | returned => exact .inl rfl
  | rotated => exact .inl (dispatch_flt ..)
  | pushed => exact .inl (dispatch_flt ..)

theorem step_flt {s t : State} (h : step s = .next t) : t.flt = s.flt ∨ ∃ k, t.flt = setFault k s.flt := by
  obtain ⟨u, hu, ht⟩ := step_effect h
  rw [← hu.flt]
  rcases ht with rfl | rfl | he
  · exact .inl rfl
  · exact .inl rfl
  · exact executed_flt he

/-- Settles O47: FLT is only ever or-ed with a mask. -/
theorem faultBitsNeverCleared : Obligations.FaultBitsNeverCleared := by
  intro s t h k hk
  rcases step_flt h with e | ⟨f, e⟩
  · rwa [e]
  · simp [e, setFault, hk]

/-- An operation is not a refusal: a step that executes one leaves REFUSED. -/
theorem refused_of_exec {i : Instr} {s t : State} (h : exec i s = .next t) : t.refused = s.refused := by
  obtain ⟨t', ht, _, _, _, hr⟩ := exec_answers i s
  cases ht.symm.trans h
  exact hr

/-- A quiet turn presents no word. -/
theorem input_ne_present_of_quiet {s t : State} (h : fetch s = .quiet t) (w : Opw) (b : Bundle) (rest : List Turn) :
    s.input ≠ .present w b :: rest := by
  intro hin
  rw [fetch_present hin] at h
  cases h

/-- A reserved word is one that was presented: a pending notification brings the word of an operation. -/
theorem presented_of_reserved {s u : State} {w v : Opw} (hf : fetch s = .word w u) (hd : decode w = .reserved v) :
    ∃ b rest, s.input = .present w b :: rest := by
  rcases fetch_word_cases hf with ⟨b, rest, hin, _⟩ | ⟨_, _, _, src, _, _, rfl, _⟩
  · exact ⟨b, rest, hin⟩
  · cases (decode_encode_op src).symm.trans hd

/-- Settles O48: the three kinds of step are a quiet turn, an operation and a refusal, and only the last sets the mark. -/
theorem refusedExactlyOnReservedWord : Obligations.RefusedExactlyOnReservedWord := by
  intro s t h
  rcases step_cases h with hf | ⟨w, u, i, hf, hd, he⟩ | ⟨w, u, v, hf, hd, rfl⟩
  · rw [(fetch_quiet_sameBlock hf).refused, iff_self_or]
    rintro ⟨w, b, rest, hin, _⟩
    exact absurd hin (input_ne_present_of_quiet hf w b rest)
  · rw [refused_of_exec he, (fetch_word_sameBlock hf).refused, iff_self_or]
    rintro ⟨w', b, rest, hin, hw⟩
    rw [fetch_present hin] at hf
    cases hf
    exact absurd hw (not_mem_reservedWords hd)
  · obtain ⟨b, rest, hin⟩ := presented_of_reserved hf hd
    exact iff_of_true rfl (.inr ⟨w, b, rest, hin, decode_reserved hd⟩)

/-- A fault bit or REFUSED is set (R26, R27). -/
def Marked (s : State) : Prop := s.flt ≠ 0b00#2 ∨ s.refused = true

theorem setFault_ne_zero (k : FaultKind) (flt : BitVec 2) : setFault k flt ≠ 0b00#2 := by
  cases k <;> revert flt <;> decide

theorem step_keeps_refused {s t : State} (h : step s = .next t) (hr : s.refused = true) : t.refused = true :=
  (refusedExactlyOnReservedWord s t h).2 (.inl hr)

theorem step_keeps_marked (s t : State) (hs : Marked s) (h : step s = .next t) : Marked t := by
  rcases hs with hf | hr
  · rcases step_flt h with e | ⟨k, e⟩
    · exact .inl (e ▸ hf)
    · exact .inl (e ▸ setFault_ne_zero k s.flt)
  · exact .inr (step_keeps_refused h hr)

/-- A good end has neither mark (R200). -/
theorem not_goodEnd_of_marked {s : State} (h : Marked s) : ¬ GoodEnd s := by
  rintro ⟨_, hf, hr⟩
  rcases h with h | h
  · exact h hf
  · exact Bool.false_ne_true (hr.symm.trans h)

/-- Settles O12: every step keeps the marks, so every run does. -/
theorem markedRunHasNoGoodEnd : Obligations.MarkedRunHasNoGoodEnd := by
  intro s hs k
  obtain ⟨t, ht, hm⟩ := runFor_keeps step_keeps_marked k s hs
  exact ⟨t, ht, hm, not_goodEnd_of_marked hm⟩

/-! ### The event history -/

/-- EVH is left, and BUSY is not entered; or one event is dispatched from IDLE, at the end of EVH. -/
def EvhStep (s t : State) : Prop :=
  (t.evh = s.evh ∧ (t.fsm = .busy → s.fsm = .busy ∧ t.pev = s.pev)) ∨
    (∃ e : Event, t.evh = s.evh ++ [e] ∧ s.fsm = .idle ∧ t.fsm = .busy ∧ t.pev = some e)

theorem evhStep_of_same {s t : State} (he : t.evh = s.evh) (hf : t.fsm = s.fsm) (hp : t.pev = s.pev) : EvhStep s t :=
  .inl ⟨he, fun hb => ⟨hf ▸ hb, hp⟩⟩

theorem evhStep_of_not_busy {s t : State} (he : t.evh = s.evh) (hf : t.fsm ≠ .busy) : EvhStep s t :=
  .inl ⟨he, fun hb => absurd hb hf⟩

theorem evhStep_dispatch {s : State} {r : Regs} (h : s.phase = .idle r) (o : Option Event) (r' : Regs) :
    EvhStep s (dispatch o r' s) := by
  cases o with
  | none => exact evhStep_of_not_busy rfl (by simp)
  | some e => exact .inr ⟨e, rfl, fsm_of_idle h, rfl, rfl⟩

theorem fsm_build_ne_busy (s : State) : (build s).fsm ≠ .busy := by
  rcases build_cases s with ⟨_, e⟩ | ⟨_, e⟩ <;> simp [e, State.fsm]

theorem evhStep_executed {u t : State} (h : Executed u t) : EvhStep u t := by
  cases h with
  | unchanged => exact evhStep_of_same rfl rfl rfl
  | faulted => exact evhStep_of_same rfl rfl rfl
  | held => exact evhStep_of_same rfl rfl rfl
  | built => exact evhStep_of_not_busy (by simp [build_environment]) (fsm_build_ne_busy u)
  | takenDown => exact evhStep_of_not_busy rfl (by simp)
  | returned => exact evhStep_of_not_busy rfl (by simp)
  | rotated r hp => exact evhStep_dispatch hp _ _
  | pushed r hp => exact evhStep_dispatch hp _ _

/-- Settles O50: of all that an operation can do, only a dispatch touches EVH or enters BUSY. -/
theorem eventHistoryGrowsExactlyByDispatch : Obligations.EventHistoryGrowsExactlyByDispatch := by
  intro s t h
  obtain ⟨u, hu, ht⟩ := step_effect h
  have hut : EvhStep u t := by
    rcases ht with rfl | rfl | he
    · exact evhStep_of_same rfl rfl rfl
    · exact evhStep_of_same rfl rfl rfl
    · exact evhStep_executed he
  rwa [EvhStep, hu.evh, hu.fsm, hu.pev] at hut

/-! ### Reset, construction and the configuration -/

/-- Settles O15: the two cases of building, and the state at power-on (R37). -/
theorem resetValues : Obligations.ResetValues := by
  refine ⟨fun s hs hk => ?_, fun s hs hk => ?_, by decide⟩
  · rw [exec_construct, if_pos hs, build_of_success hk]
    exact ⟨_, rfl, rfl, rfl, rfl, rfl, rfl, rfl, rfl, rfl, rfl⟩
  · rw [exec_construct, if_pos hs, build_of_failure hk]
    exact ⟨_, rfl, rfl, rfl, rfl, rfl, rfl, rfl, rfl, rfl⟩

/-- The one operation that changes the configuration in force is a CONSTRUCT that succeeds (R34). -/
theorem construct_of_exec_cfg_ne {i : Instr} {u t : State} (h : exec i u = .next t) (hc : t.cfg ≠ u.cfg) :
    i = .construct ∧ (u.fsm = .off ∨ u.fsm = .down) ∧ u.port.k = true ∧ t.fsm = .idle ∧ t.cfg = u.offer := by
  have keeps : ∀ {v : State}, exec i u = .next v → v.cfg = u.cfg → False := fun hv e => by
    cases hv.symm.trans h
    exact hc e
  cases i with
  | construct =>
    rcases exec_construct_cases u with ⟨hs, e⟩ | ⟨_, e⟩
    · cases hk : u.port.k with
      | true =>
        rw [e, build_of_success hk] at h
        cases h
        exact ⟨rfl, hs, rfl, rfl, rfl⟩
      | false =>
        rw [build_of_failure hk] at e
        exact (keeps e rfl).elim
    · exact (keeps e rfl).elim
  | teardown => exact (keeps (exec_teardown u) (by split <;> rfl)).elim
  | rotClkf => exact (keeps (exec_rotClkf u) (by split <;> simp [notify_environment])).elim
  | rotClke => exact (keeps (exec_rotClke u) (by simp [notify_environment])).elim
  | rotDte => exact (keeps (exec_rotDte u) (by simp [notify_environment])).elim
  | pushF => exact (keeps (exec_pushF u) (by simp [notify_environment])).elim
  | hret =>
    rcases exec_hret_cases u with ⟨_, _, _, e⟩ | ⟨_, e⟩ | ⟨_, e⟩ <;> exact (keeps e rfl).elim

/-- Settles O19: CONSTRUCT is never a pending notification, so its word was presented. -/
theorem configChangedOnlyByConstruct : Obligations.ConfigChangedOnlyByConstruct := by
  intro s t h hc
  rcases step_cases h with hf | ⟨w, u, i, hf, hd, he⟩ | ⟨w, u, v, hf, hd, rfl⟩
  · exact absurd (fetch_quiet_sameBlock hf).cfg hc
  · have hu := fetch_word_sameBlock hf
    obtain ⟨rfl, hfsm, hk, hidle, hoffer⟩ := construct_of_exec_cfg_ne he (hu.cfg ▸ hc)
    rcases fetch_word_cases hf with ⟨b, rest, hin, rfl⟩ | ⟨_, _, _, src, _, _, rfl, _⟩
    · cases eq_zero_of_decode_construct hd
      exact ⟨⟨b, rest, hin, hk⟩, hfsm, hidle, hoffer⟩
    · rw [decode_encode_op] at hd
      cases src <;> cases hd
  · exact absurd (fetch_word_sameBlock hf).cfg hc

/-! ### Runs that begin with CONSTRUCT -/

theorem step_present {s : State} {w : Opw} {b : Bundle} {rest : List Turn} {i : Instr}
    (hin : s.input = .present w b :: rest) (hd : decode w = .op i) :
    step s = exec i { s with port := b, input := rest } :=
  step_of_word (fetch_present hin) hd

/-- The state after a successful CONSTRUCT has been presented (R37, R240). -/
def constructedState (s : State) (b : Bundle) (rest : List Turn) : State :=
  { s with phase := .idle (constructedRegs b), cfg := s.offer, port := b, input := rest }

theorem step_construct {s : State} {b : Bundle} {rest : List Turn} (hs : s.fsm = .off ∨ s.fsm = .down)
    (hin : s.input = .present 0b0000#4 b :: rest) (hk : b.k = true) :
    step s = .next (constructedState s b rest) := by
  rw [step_present hin (i := .construct) rfl, exec_construct]
  exact congrArg _ ((if_pos hs).trans (build_of_success hk))

theorem exec_rotation_of_idle {i : Instr} {s : State} {r : Regs} (hi : IsRotation s.cfg i) (h : s.phase = .idle r) :
    exec i s = .next (dispatch (sampleRotation s.cfg s.port r).2 (sampleRotation s.cfg s.port r).1 s) := by
  rcases hi with rfl | rfl | ⟨rfl, hd⟩
  · rw [exec_rotClke, notify_of_idle _ _ h]
  · rw [exec_rotDte, notify_of_idle _ _ h]
  · rw [exec_rotClkf, if_pos hd, notify_of_idle _ _ h]

/-- A rotation word presented in IDLE samples the pins and dispatches its outcome (R161, R164). -/
theorem step_rotation {s : State} {r : Regs} {w : Opw} {b : Bundle} {rest : List Turn} (h : s.phase = .idle r)
    (hin : s.input = .present w b :: rest) (hw : IsRotationWord s.cfg w) :
    step s = .next (dispatch (sampleRotation s.cfg b r).2 (sampleRotation s.cfg b r).1
      { s with port := b, input := rest }) := by
  obtain ⟨i, hd, hi⟩ := decode_rotationWord hw
  rw [step_present hin hd]
  exact exec_rotation_of_idle hi h

/-- A sample that is suppressed or forms an invalid code gives no outcome, leaves HR, and leaves SC as `quietSamples`
continues with it. -/
theorem sampleRotation_quiet {cfg : Config} {r : Regs} {b : Bundle} {bs : List Bundle}
    (h : quietSamples cfg r.sc (b :: bs)) :
    (sampleRotation cfg b r).2 = none ∧ (sampleRotation cfg b r).1.hr = r.hr ∧
      quietSamples cfg (sampleRotation cfg b r).1.sc bs := by
  rw [sampleRotation_eq]
  rw [quietSamples] at h
  split_ifs at h ⊢ with hp hv
  · exact ⟨rfl, rfl, h⟩
  · exact ⟨rfl, rfl, h.2⟩
  · exact absurd h.1 hv

/-- Rotations that record no code leave IDLE, HR, EVH and the configuration (R129). -/
theorem runFor_quietSamples (ops : List (Opw × Bundle)) : ∀ {s : State} {r : Regs} {rest : List Turn},
    s.phase = .idle r → s.input = (ops.map fun o => .present o.1 o.2) ++ rest →
    (∀ o ∈ ops, IsRotationWord s.cfg o.1) → quietSamples s.cfg r.sc (ops.map Prod.snd) →
    ∃ t r', runFor ops.length s = .next t ∧ t.phase = .idle r' ∧ r'.hr = r.hr ∧ t.evh = s.evh ∧ t.cfg = s.cfg ∧
      t.input = rest := by
  induction ops with
  | nil => exact fun {s r _} hp hin _ _ => ⟨s, r, rfl, hp, rfl, rfl, rfl, hin⟩
  | cons o ops ih =>
    intro s r rest hp hin hw hq
    obtain ⟨hout, hhr, hq'⟩ := sampleRotation_quiet hq
    have hstep := step_rotation hp hin (hw o List.mem_cons_self)
    rw [hout, dispatch_none] at hstep
    obtain ⟨t, r', ht, hp', hhr', hevh, hcfg, hrest⟩ :=
      ih (s := { s with
            phase := .idle (sampleRotation s.cfg o.2 r).1
            port := o.2
            input := (ops.map fun o => .present o.1 o.2) ++ rest })
        rfl rfl (fun x hx => hw x (List.mem_cons_of_mem o hx)) hq'
    exact ⟨t, r', (runFor_succ _ hstep).trans ht, hp', hhr'.trans hhr, hevh, hcfg, hrest⟩

/-- With HR = 0 there is no last valid code, so no terminal pair is complete (R104). -/
theorem sampleRotation_silent_of_hr_zero (cfg : Config) (b : Bundle) {r : Regs} (h : r.hr = 0) :
    (sampleRotation cfg b r).2 = none := by
  have hz : ∀ sc : ShiftCode, terminalMatch (pushHistory 0 sc) = none := by decide
  rw [sampleRotation_eq, h]
  split_ifs
  · rfl
  · rfl
  · exact hz _

/-- Settles O26: CONSTRUCT leaves HR = 0, the quiet rotations leave it, and no code completes a terminal pair with it. -/
theorem firstValidCodeAfterConstructIsSilent : Obligations.FirstValidCodeAfterConstructIsSilent := by
  intro s b0 ops w b rest hs hk hin hops hw hq
  have h1 := step_construct hs hin hk
  obtain ⟨u, r, h2, hp, hhr, hevh, hcfg, hrest⟩ :=
    runFor_quietSamples (s := constructedState s b0 _) (r := constructedRegs b0) (rest := .present w b :: rest) ops
      rfl rfl hops hq
  have hw' : IsRotationWord u.cfg w := by rwa [hcfg]
  have h3 := step_rotation hp hrest hw'
  rw [sampleRotation_silent_of_hr_zero _ _ hhr, dispatch_none] at h3
  rw [runFor_succ _ h1, runFor_add _ 1 h2, runFor_succ 0 h3]
  exact ⟨_, rfl, rfl, hevh, rfl⟩

/-- Inside the push window a push gives no event (R142). -/
theorem debounceGate_silent {cfg : Config} {b : Bundle} {r : Regs} (h : b.t ≤ r.ts + cfg.pushTimeTicks) :
    (debounceGate cfg b r).2 = none := by
  rw [debounceGate_outcome, if_neg]
  omega

theorem step_pushF {s : State} {r : Regs} {b : Bundle} {rest : List Turn} (h : s.phase = .idle r)
    (hin : s.input = .present 0b1000#4 b :: rest) :
    step s = .next (dispatch (debounceGate s.cfg b r).2 (debounceGate s.cfg b r).1
      { s with port := b, input := rest }) := by
  rw [step_present hin (i := .pushF) rfl, exec_pushF]
  exact congrArg _ (notify_of_idle _ _ h)

/-- Settles O36: CONSTRUCT sets TS to its own time and the offered threshold is in force for the push. -/
theorem constructionShutsWindow : Obligations.ConstructionShutsWindow := by
  intro s b0 b1 rest hs hin hk ht
  have h1 := step_construct hs hin hk
  have h2 := step_pushF (s := constructedState s b0 (.present 0b1000#4 b1 :: rest)) (r := constructedRegs b0) rfl rfl
  rw [debounceGate_silent ht, dispatch_none] at h2
  rw [runFor_succ 0 h1, runFor_succ 1 h1, runFor_succ 0 h2]
  exact ⟨_, _, rfl, rfl, rfl, rfl, rfl⟩

/-! ### What the registers and outputs show of a state -/

/-- Settles O52: the values are carried by the phase (R25, R36). -/
theorem valuesExactlyWhileRunning : Obligations.ValuesExactlyWhileRunning := by
  intro s
  cases hp : s.phase <;>
    simp [State.sc, State.hr, State.ts, State.initclk, State.regs, State.pev, State.fsm, Running, hp]

theorem pev_of_not_busy {s : State} (h : s.fsm ≠ .busy) : s.pev = none := by
  cases hp : s.phase with
  | busy r e => exact absurd (fsm_of_busy hp) h
  | off => exact pev_of_off hp
  | idle r => exact pev_of_idle hp
  | down => exact pev_of_down hp
  | failed => exact pev_of_failed hp

/-- The event code while PEV holds a value (R78). -/
theorem eventCode_some (e : Event) :
    eventCode (some e) = if some e = some Event.cw then 0b01#2 else if some e = some .ccw then 0b10#2 else 0b11#2 := by
  cases e <;> rfl

theorem evtCodeOut_eq (s : State) :
    s.evtCodeOut = if s.fsm = .busy then
      (if s.pev = some .cw then 0b01#2 else if s.pev = some .ccw then 0b10#2 else 0b11#2) else 0b00#2 := by
  by_cases hb : s.fsm = .busy
  · obtain ⟨r, e, hp⟩ := fsm_eq_busy.1 hb
    rw [if_pos hb, State.evtCodeOut, pev_of_busy hp, eventCode_some]
  · rw [if_neg hb, State.evtCodeOut, pev_of_not_busy hb]
    rfl

/-- Settles O53: the five outputs (R79). -/
theorem outputsOfState : Obligations.OutputsOfState := by
  intro s
  refine ⟨evtCodeOut_eq s, ?_, ?_, rfl, ?_⟩
  · by_cases h : s.fsm = .busy <;> simp [State.busyOut, h]
  · show s.fsm.bits = _
    cases s.fsm <;> rfl
  · cases h : s.refused <;> simp [State.refusedOut, h]

end Sys2Proof.Proofs
end

section
/-! Proofs of the statements about the stored words: the step that runs a presented operation, the validity table, and the
clk/dt mirror. -/

namespace Sys2Proof.Proofs

open Sys2Proof.Machine Sys2Proof.Safety

/-! ### The validity table and the codes -/

/-- A valid code has exactly one pin that differs between its two pairs (spec/20_memory.md R52). -/
theorem readVT_eq_one_iff_single_change (c : BitVec 4) :
    readVT c = 1#1 ↔ (c.extractLsb' 3 1 ≠ c.extractLsb' 1 1 ↔ c.extractLsb' 2 1 = c.extractLsb' 0 1) := by
  revert c; decide

/-- The eight codes whose entry of the table is 1 (R52). -/
theorem readVT_eq_one_iff_mem (c : BitVec 4) : readVT c = 1#1 ↔ c ∈ [1, 2, 4, 7, 8, 11, 13, 14] := by
  revert c; decide

/-- Settles O22: the transcribed table against the parity of the code, and against the list of the valid codes. -/
theorem validCodesAreSinglePinChanges : Obligations.ValidCodesAreSinglePinChanges :=
  fun c => ⟨readVT_eq_one_iff_single_change c, readVT_eq_one_iff_mem c⟩

/-- Settles O3: the turn is fetched with its own bundle, and its word decodes to the operation. -/
theorem stepRunsDecodedOperation : Obligations.StepRunsDecodedOperation :=
  fun _ _ _ _ _ hin hd _ => step_present hin hd

/-! ### The mirror of codes and histories (spec/41_rotation.md R127) -/

@[simp] theorem readVT_swapCode (c : ShiftCode) : readVT (swapCode c) = readVT c := by
  revert c; decide

/-- The two terminal pairs are each other's mirror. -/
theorem swapCode_append_eq_cwPattern (a c : ShiftCode) : swapCode a ++ swapCode c = 0x2B#8 ↔ a ++ c = 0x17#8 := by
  revert a c; decide

theorem swapCode_append_eq_ccwPattern (a c : ShiftCode) : swapCode a ++ swapCode c = 0x17#8 ↔ a ++ c = 0x2B#8 := by
  revert a c; decide

/-- Swapping the old code and the sample swaps the code they form. -/
theorem newCode_swap (sc : ShiftCode) (b : Bundle) : newCode (swapCode sc) (swapBundle b) = swapCode (newCode sc b) := by
  obtain ⟨p, c, d, t, k⟩ := b
  show lastPair (swapCode sc) ++ (d ++ c) = swapCode (lastPair sc ++ (c ++ d))
  clear p t k
  revert sc c d; decide

/-- The last three of four codes, followed by one more. -/
theorem append_drop_oldest (n₃ n₂ n₁ n₀ c : BitVec 4) :
    ((n₃ ++ n₂) ++ (n₁ ++ n₀)).extractLsb' 0 12 ++ c = (n₂ ++ n₁) ++ (n₀ ++ c) := by
  apply BitVec.eq_of_getLsbD_eq
  intro i hi
  simp only [BitVec.getLsbD_append, BitVec.getLsbD_extractLsb']
  grind

/-- The history step moves each code one place up. -/
theorem pushHistory_nibble_succ (hr : History) (sc : ShiftCode) {i : Nat} (hi : i + 4 ≤ 12) :
    (pushHistory hr sc).extractLsb' (i + 4) 4 = hr.extractLsb' i 4 := by
  rw [pushHistory_eq_append, BitVec.extractLsb'_append_eq_of_le (by omega), Nat.add_sub_cancel,
    BitVec.extractLsb'_extractLsb'_of_le hi]

/-- The history step commutes with the swap. -/
theorem swapHistory_pushHistory (hr : History) (sc : ShiftCode) :
    swapHistory (pushHistory hr sc) = pushHistory (swapHistory hr) (swapCode sc) := by
  rw [pushHistory_eq_append (swapHistory hr), swapHistory, swapHistory, append_drop_oldest, pushHistory_nibble0,
    pushHistory_nibble1, pushHistory_nibble_succ (i := 4) hr sc (by decide),
    pushHistory_nibble_succ (i := 8) hr sc (by decide)]

theorem swapHistory_nibble0 (hr : History) : (swapHistory hr).extractLsb' 0 4 = swapCode (hr.extractLsb' 0 4) := by
  rw [swapHistory, BitVec.extractLsb'_append_eq_of_add_le (by decide), BitVec.extractLsb'_append_eq_right]

/-- The history step on mirrored operands matches the other terminal pattern (R104). -/
theorem terminalMatch_swap (hr : History) (sc : ShiftCode) :
    terminalMatch (pushHistory (swapHistory hr) (swapCode sc)) =
      (terminalMatch (pushHistory hr sc)).map swapEvent := by
  simp only [terminalMatch_pushHistory, swapHistory_nibble0, swapCode_append_eq_cwPattern,
    swapCode_append_eq_ccwPattern]
  by_cases hcw : hr.extractLsb' 0 4 ++ sc = 0x2B#8
  · simp [hcw, swapEvent]
  · by_cases hccw : hr.extractLsb' 0 4 ++ sc = 0x17#8 <;> simp [hcw, hccw, swapEvent]

/-! ### The mirror of a state

The mirror as a function commutes with every operation but CONSTRUCT, whose INITCLK is the level of clk alone; R28 says
that INITCLK never matters, so that the rest of R127 is `initclkNeverMatters`. -/

/-- The registers with their codes mirrored. -/
def mirrorRegs (r : Regs) : Regs := { r with sc := swapCode r.sc, hr := swapHistory r.hr }

/-- The phase with its registers and its event mirrored. -/
def mirrorPhase : Phase → Phase
  | .off => .off
  | .idle r => .idle (mirrorRegs r)
  | .busy r e => .busy (mirrorRegs r) (swapEvent e)
  | .down => .down
  | .failed => .failed

/-- The state with clk and dt swapped in its codes and in every sample, and CW and CCW exchanged. -/
def mirror (s : State) : State :=
  { s with
    phase := mirrorPhase s.phase
    evh := s.evh.map swapEvent
    port := swapBundle s.port
    input := s.input.map swapTurn }

theorem phaseRel_mirrored_iff (p q : Phase) :
    phaseRel mirroredRegs swapEvent p q ↔ phaseRel sameButInitclk id (mirrorPhase p) q := by
  cases p <;> cases q <;> exact Iff.rfl

/-- The relation of R127 is the mirror up to INITCLK and the sample port. -/
theorem mirrored_iff_alike_mirror (s t : State) : Mirrored s t ↔ Alike sameButInitclk (mirror s) t where
  mp h := { h with phase := (phaseRel_mirrored_iff _ _).1 h.phase }
  mpr h := { h with phase := (phaseRel_mirrored_iff _ _).2 h.phase }

theorem mirror_phase {s : State} {p : Phase} (h : s.phase = p) : (mirror s).phase = mirrorPhase p :=
  congrArg mirrorPhase h

@[simp] theorem mirror_fsm (s : State) : (mirror s).fsm = s.fsm := by
  cases h : s.phase <;> simp [State.fsm, mirror, mirrorPhase, h]

@[simp] theorem mirror_cfg (s : State) : (mirror s).cfg = s.cfg := rfl

@[simp] theorem registered_mirror (s : State) (src : Source) : registered (mirror s) src = registered s src := by
  cases h : s.phase <;> simp [registered, mirror, mirrorPhase, h]

/-! ### The mirror and the shared operations -/

theorem raise_mirror (k : FaultKind) (s : State) : raise k (mirror s) = mirror (raise k s) := rfl

theorem refuse_mirror (s : State) : refuse (mirror s) = mirror (refuse s) := rfl

theorem hold_mirror (src : Source) (s : State) : hold src (mirror s) = mirror (hold src s) := rfl

theorem takeDown_mirror (s : State) : takeDown (mirror s) = mirror (takeDown s) := rfl

theorem handlerReturn_mirror (r : Regs) (s : State) :
    handlerReturn (mirrorRegs r) (mirror s) = mirror (handlerReturn r s) := rfl

theorem dispatch_mirror (o : Option Event) (r : Regs) (s : State) :
    dispatch (o.map swapEvent) (mirrorRegs r) (mirror s) = mirror (dispatch o r s) := by
  cases o with
  | none => rfl
  | some e => simp [dispatch, emit, mirror, mirrorPhase]

theorem pinEdge_mirror (pin : Pin) (e : Edge) (s : State) : pinEdge pin e (mirror s) = mirror (pinEdge pin e s) := by
  simp only [pinEdge, registered_mirror]
  rfl

theorem ite_mirror (p : Prop) [Decidable p] (s t : State) :
    (if p then mirror s else mirror t) = mirror (if p then s else t) :=
  (apply_ite mirror p s t).symm

/-- A datapath function whose result on mirrored operands is its mirrored result. -/
def RespectsMirror (f : Config → Bundle → Regs → Regs × Option Event) : Prop :=
  ∀ cfg b r, f cfg (swapBundle b) (mirrorRegs r) = (mirrorRegs (f cfg b r).1, (f cfg b r).2.map swapEvent)

theorem respectsMirror_sampleRotation : RespectsMirror sampleRotation := by
  intro cfg b r
  have hcode : newCode (mirrorRegs r).sc (swapBundle b) = swapCode (newCode r.sc b) := newCode_swap r.sc b
  have hp : (swapBundle b).p = b.p := rfl
  rw [sampleRotation_eq, sampleRotation_eq, hcode, readVT_swapCode, hp]
  split_ifs
  · rfl
  · rfl
  · simp only [mirrorRegs, swapHistory_pushHistory, terminalMatch_swap]

/-- DebounceGate reads neither clk nor dt nor a code, and PUSH is its own mirror. -/
theorem respectsMirror_debounceGate : RespectsMirror debounceGate := by
  intro cfg b r
  have hout : (debounceGate cfg b r).2.map swapEvent = (debounceGate cfg b r).2 := by
    rw [debounceGate_outcome]
    split <;> rfl
  rw [hout]
  rfl

theorem notify_mirror {f : Config → Bundle → Regs → Regs × Option Event} (hf : RespectsMirror f) (src : Source)
    (s : State) : notify src f (mirror s) = mirror (notify src f s) := by
  cases h : s.phase with
  | off => rw [notify_of_off _ _ h, notify_of_off _ _ (mirror_phase h), raise_mirror]
  | idle r =>
    rw [notify_of_idle _ _ h, notify_of_idle _ _ (mirror_phase h), ← dispatch_mirror]
    exact congrArg (fun x => dispatch x.2 x.1 (mirror s)) (hf s.cfg s.port r)
  | busy r e => rw [notify_of_busy _ _ h, notify_of_busy _ _ (mirror_phase h), hold_mirror]
  | down => rw [notify_of_down _ _ h, notify_of_down _ _ (mirror_phase h)]
  | failed => rw [notify_of_failed _ _ h, notify_of_failed _ _ (mirror_phase h), raise_mirror]

/-! ### Alike up to INITCLK -/

theorem sameButInitclk_trans {a b c : Regs} (hab : sameButInitclk a b) (hbc : sameButInitclk b c) :
    sameButInitclk a c := by
  obtain ⟨hsc, hhr, hts⟩ := hab
  obtain ⟨hsc', hhr', hts'⟩ := hbc
  exact ⟨hsc'.trans hsc, hhr'.trans hhr, hts'.trans hts⟩

theorem phaseRel_initclk_trans {p q o : Phase} (h : phaseRel sameButInitclk id p q)
    (h' : phaseRel sameButInitclk id q o) : phaseRel sameButInitclk id p o := by
  rcases phaseRel_cases h with ⟨rfl, rfl⟩ | ⟨a, b, rfl, rfl, hab⟩ | ⟨a, b, e, rfl, rfl, hab⟩ | ⟨rfl, rfl⟩ | ⟨rfl, rfl⟩
  · exact h'
  · cases o with
    | idle c => exact sameButInitclk_trans hab h'
    | _ => exact h'.elim
  · obtain ⟨c, rfl, hbc⟩ := phaseRel_busy h'
    exact ⟨sameButInitclk_trans hab hbc, rfl⟩
  · exact h'
  · exact h'

theorem alike_initclk_trans {s t u : State} (h : Alike sameButInitclk s t) (h' : Alike sameButInitclk t u) :
    Alike sameButInitclk s u where
  phase := phaseRel_initclk_trans h.phase h'.phase
  flt := h'.flt.trans h.flt
  refused := h'.refused.trans h.refused
  evh := h'.evh.trans h.evh
  cfg := h'.cfg.trans h.cfg
  offer := h'.offer.trans h.offer
  pending := h'.pending.trans h.pending
  input := h'.input.trans h.input

theorem alike_initclk_of_eq {s t : State} (h : t = s) : Alike sameButInitclk s t := by
  subst h
  refine ⟨?_, rfl, rfl, rfl, rfl, rfl, rfl, rfl⟩
  cases t.phase with
  | idle r => exact keptByDatapath_initclk.refl r
  | busy r e => exact ⟨keptByDatapath_initclk.refl r, rfl⟩
  | _ => exact trivial

/-! ### The mirror and the step -/

/-- CONSTRUCT leaves zero codes, which are their own mirror, and the level of clk in INITCLK alone (R37). -/
theorem alike_build_mirror (s : State) : Alike sameButInitclk (mirror (build s)) (build (mirror s)) := by
  have hk : (mirror s).port.k = s.port.k := rfl
  rcases h : s.port.k
  · rw [build_of_failure h, build_of_failure (hk.trans h)]
    exact alike_initclk_of_eq rfl
  · rw [build_of_success h, build_of_success (hk.trans h)]
    refine ⟨?_, rfl, rfl, rfl, rfl, rfl, rfl, rfl⟩
    have hsc : (0b0000#4 : ShiftCode) = swapCode 0b0000#4 := by decide
    have hhr : (0x0000#16 : History) = swapHistory 0x0000#16 := by decide
    exact ⟨hsc, hhr, rfl⟩

theorem exec_construct_mirror (s : State) :
    ∃ t u, exec .construct s = .next t ∧ exec .construct (mirror s) = .next u ∧
      Alike sameButInitclk (mirror t) u := by
  refine ⟨_, _, exec_construct s, exec_construct (mirror s), ?_⟩
  rw [← ite_mirror, mirror_fsm]
  exact alike_ite (alike_build_mirror s) (alike_initclk_of_eq rfl)

theorem exec_hret_mirror (s : State) :
    ∃ t, exec .hret s = .next t ∧ exec .hret (mirror s) = .next (mirror t) := by
  by_cases hb : s.fsm = .busy
  · obtain ⟨r, e, hs⟩ := fsm_eq_busy.1 hb
    exact ⟨_, exec_hret_of_busy hs, exec_hret_of_busy (mirror_phase hs)⟩
  · refine ⟨_, exec_hret_of_not_busy hb, ?_⟩
    rw [exec_hret_of_not_busy (by rwa [mirror_fsm]), mirror_fsm, raise_mirror, ite_mirror]

/-- Every operation but CONSTRUCT commutes with the mirror. -/
theorem exec_mirror {i : Instr} (hi : i ≠ .construct) (s : State) :
    ∃ t, exec i s = .next t ∧ exec i (mirror s) = .next (mirror t) := by
  cases i with
  | construct => exact absurd rfl hi
  | teardown =>
    refine ⟨_, exec_teardown s, ?_⟩
    simp only [exec_teardown, Running, mirror_fsm, takeDown_mirror, ite_mirror]
  | rotClkf =>
    refine ⟨_, exec_rotClkf s, ?_⟩
    rw [exec_rotClkf, mirror_cfg, notify_mirror respectsMirror_sampleRotation, raise_mirror, ite_mirror]
  | rotClke => exact ⟨_, exec_rotClke s, by rw [exec_rotClke, notify_mirror respectsMirror_sampleRotation]⟩
  | rotDte => exact ⟨_, exec_rotDte s, by rw [exec_rotDte, notify_mirror respectsMirror_sampleRotation]⟩
  | pushF => exact ⟨_, exec_pushF s, by rw [exec_pushF, notify_mirror respectsMirror_debounceGate]⟩
  | hret => exact exec_hret_mirror s

/-- What a turn of the mirrored state comes to. -/
def mirrorFetched : Fetched → Fetched
  | .word w s => .word w (mirror s)
  | .quiet s => .quiet (mirror s)

/-- The mirrored state takes the mirrored turn: only the samples in it differ. -/
theorem fetch_mirror (s : State) : fetch (mirror s) = mirrorFetched (fetch s) := by
  have hm : (mirror s).input = s.input.map swapTurn := rfl
  cases hs : s.input with
  | nil =>
    rw [hs] at hm
    rw [fetch_nil hs, fetch_nil hm]
    rfl
  | cons turn rest =>
    rw [hs] at hm
    cases turn with
    | present w b =>
      rw [fetch_present hs, fetch_present hm]
      rfl
    | edge pin e =>
      rw [fetch_edge hs, fetch_edge hm, pinEdge_mirror]
      rfl
    | offer c =>
      rw [fetch_offer hs, fetch_offer hm]
      rfl
    | run k b =>
      have hp : (mirror s).pending[k]? = s.pending[k]? := rfl
      cases hk : s.pending[k]? with
      | none =>
        rw [fetch_run_none hs hk, fetch_run_none hm (hp.trans hk)]
        rfl
      | some src =>
        rw [fetch_run_some hs hk, fetch_run_some hm (hp.trans hk)]
        rfl

/-- A step of the mirrored state is the mirrored step, up to INITCLK. -/
theorem step_mirror {s t : State} (h : step s = .next t) :
    ∃ u, step (mirror s) = .next u ∧ Alike sameButInitclk (mirror t) u := by
  have hm := fetch_mirror s
  rcases step_cases h with hf | ⟨w, v, i, hf, hd, he⟩ | ⟨w, v, x, hf, hd, rfl⟩ <;> rw [hf] at hm
  · exact ⟨_, step_of_quiet hm, alike_initclk_of_eq rfl⟩
  · rw [step_of_word hm hd]
    by_cases hi : i = .construct
    · subst hi
      obtain ⟨t', u, ht, hu, htu⟩ := exec_construct_mirror v
      cases ht.symm.trans he
      exact ⟨u, hu, htu⟩
    · obtain ⟨t', ht, hu⟩ := exec_mirror hi v
      cases ht.symm.trans he
      exact ⟨_, hu, alike_initclk_of_eq rfl⟩
  · exact ⟨_, step_of_reserved hm hd, alike_initclk_of_eq (refuse_mirror v)⟩

/-- Settles O30: the step commutes with the mirror up to INITCLK, and INITCLK never matters (R28, R127). -/
theorem mirrorSymmetry : Obligations.MirrorSymmetry := by
  refine ⟨⟨readVT_swapCode, by decide, by decide⟩, fun s t s' h hs => ?_⟩
  obtain ⟨u, hu, hu'⟩ := step_mirror hs
  obtain ⟨t', ht, ht'⟩ := initclkNeverMatters _ _ _ ((mirrored_iff_alike_mirror s t).1 h) hu
  exact ⟨t', ht, (mirrored_iff_alike_mirror s' t').2 (alike_initclk_trans hu' ht')⟩

end Sys2Proof.Proofs
end

section
/-! Proofs of the statements about the encoding, the duty on the time samples, and the handler a dispatch calls. -/

namespace Sys2Proof.Proofs

open Sys2Proof.Machine Sys2Proof.Safety

/-! ### The encoder and the decoder (spec/30_encoding.md R71 to R75) -/

theorem decode_eq_op_iff {w : Opw} {i : Instr} :
    decode w = .op i ↔ opOf (OpClass.ofBits (Opw.cls w)) (Opw.src w) = some i := by
  unfold decode
  split
  · next j hj => simp [hj]
  · next hn => simp [hn]

/-- The word of an operation is not reserved, and its CLS and SRC fields are the operation's. -/
theorem encodedWord (i : Instr) : Laws.EncodedWord.Statement i := by
  cases i with
  | construct => exact Laws.EncodedWord.construct
  | teardown => exact Laws.EncodedWord.teardown
  | rotClkf => exact Laws.EncodedWord.rotClkf
  | rotClke => exact Laws.EncodedWord.rotClke
  | rotDte => exact Laws.EncodedWord.rotDte
  | pushF => exact Laws.EncodedWord.pushF
  | hret => exact Laws.EncodedWord.hret

/-- A class and a SRC value name an operation exactly when they are its own (R73). -/
theorem opOf_eq_some_iff {c : OpClass} {src : BitVec 2} {i : Instr} :
    opOf c src = some i ↔ c = i.opClass ∧ src = i.srcBits := by
  constructor
  · intro h
    cases c <;> rw [opOf] at h
    case life =>
      split_ifs at h with h0 h1 <;> cases h
      exacts [⟨rfl, h0⟩, ⟨rfl, h1⟩]
    case rot =>
      split_ifs at h with h0 h1 h2 <;> cases h
      exacts [⟨rfl, h0⟩, ⟨rfl, h1⟩, ⟨rfl, h2⟩]
    case push =>
      split_ifs at h with h0
      cases h
      exact ⟨rfl, h0⟩
    case host =>
      split_ifs at h with h0
      cases h
      exact ⟨rfl, h0⟩
  · rintro ⟨rfl, rfl⟩
    cases i <;> rfl

theorem decode_encode (i : Instr) : decode (encode i) = .op i := by
  obtain ⟨_, hcls, hsrc⟩ := encodedWord i
  exact decode_eq_op_iff.2 (opOf_eq_some_iff.2 ⟨hcls, hsrc⟩)

theorem toBits_ofBits (c : BitVec 2) : (OpClass.ofBits c).toBits = c := by
  revert c; decide

/-- OPW is its fields CLS and SRC (R71). -/
theorem cls_append_src (w : Opw) : Opw.cls w ++ Opw.src w = w := by
  revert w; decide

theorem encode_of_decode {w : Opw} {i : Instr} (h : decode w = .op i) : encode i = w := by
  obtain ⟨hcls, hsrc⟩ := opOf_eq_some_iff.1 (decode_eq_op_iff.1 h)
  calc encode i = (OpClass.ofBits (Opw.cls w)).toBits ++ Opw.src w := by rw [encode, hcls, hsrc]
    _ = w := by rw [toBits_ofBits, cls_append_src]

theorem wf_eq_false_iff (w : Opw) : Opw.wf w = false ↔ w ∈ reservedWords := by
  simp [Opw.wf]

/-- A decoder reads bits 3..0 of a table word, whatever pads them (R71; log entry 10). -/
theorem opw_of_padded (w : Opw) (pad : Nat) {nbits : Nat} (h : 4 ≤ nbits) :
    BitVec.ofNat 4 ((w.toNat + 16 * pad) % 2 ^ nbits) = w := by
  apply BitVec.eq_of_toNat_eq
  rw [BitVec.toNat_ofNat, Nat.mod_mod_of_dvd _ (Nat.pow_dvd_pow 2 h)]
  omega

theorem decodeTableWord_of_decode {nbits x : Nat} {i : Instr} (h : decode (BitVec.ofNat 4 (x % 2 ^ nbits)) = .op i) :
    decodeTableWord nbits x = some i := by
  simp only [decodeTableWord, h]

/-- Settles O2: encoder and decoder are inverse field by field, and padding does not reach OPW. -/
theorem encodeDecodeAgree : Obligations.EncodeDecodeAgree := by
  refine ⟨fun i _ => decode_encode i, fun _ _ => encode_of_decode, fun w => ?_, fun i nbits pad _ hn => ?_⟩
  · rw [wf_eq_false_iff, mem_reservedWords_iff]
  · exact decodeTableWord_of_decode ((opw_of_padded (encode i) pad hn).symm ▸ decode_encode i)

/-- Settles O1: the 16 words, one by one. -/
theorem opcodeMapDecodes : Obligations.OpcodeMapDecodes := by
  unfold Obligations.OpcodeMapDecodes
  decide

/-! ### The duty on the time samples (spec/60_exceptions.md R221) -/

/-- A step moves past one turn. -/
theorem step_input {s t : State} (h : step s = .next t) : t.input = s.input.tail := by
  have presented : ∀ {w u}, fetch s = .word w u → u.input = s.input.tail := fun hf => by
    rcases fetch_word_cases hf with ⟨_, _, hin, rfl⟩ | ⟨_, _, _, _, hin, _, _, rfl⟩ <;> rw [hin] <;> rfl
  rcases step_cases h with hf | ⟨w, u, i, hf, _, he⟩ | ⟨w, u, v, hf, _, rfl⟩
  · rcases fetch_quiet_cases hf with ⟨hin, rfl⟩ | ⟨_, _, _, hin, rfl⟩ | ⟨_, _, hin, rfl⟩ | ⟨_, _, _, hin, _, rfl⟩ <;>
      rw [hin] <;> rfl
  · obtain ⟨t', ht, hin, _⟩ := exec_answers i u
    cases ht.symm.trans he
    rw [hin, presented hf]
  · rw [refuse_input, presented hf]

theorem timeRead_of_input_nil {s : State} (h : s.input = []) : timeRead s = none := by
  simp only [timeRead, fetch_nil h]

/-- The duty over one step: what it reads is not before `t0`, and the rest of the run keeps the duty from there. -/
theorem timesRiseFor_succ {k t0 : Nat} {s t : State} (h : step s = .next t) :
    timesRiseFor (k + 1) t0 s = true ↔
      (∀ t1 ∈ timeRead s, t0 ≤ t1) ∧ timesRiseFor k ((timeRead s).getD t0) t = true := by
  cases hr : timeRead s <;> simp [timesRiseFor, h, hr]

theorem timesRise_step {t0 : Nat} {s t : State} (hd : timesRise t0 s = true) (h : step s = .next t) :
    (∀ t1 ∈ timeRead s, t0 ≤ t1) ∧ timesRise ((timeRead s).getD t0) t = true := by
  have hin := step_input h
  cases hs : s.input with
  | nil => simp [timeRead_of_input_nil hs, timesRise, timesRiseFor, hin, hs]
  | cons turn rest =>
    rw [timesRise, hs, List.length_cons, timesRiseFor_succ h] at hd
    rwa [timesRise, hin, hs, List.tail_cons]

/-- TS is not after some `t0` from which the run keeps the duty. -/
def TimeDutyKept (s : State) : Prop := ∃ t0, (∀ ts ∈ s.ts, ts ≤ t0) ∧ timesRise t0 s = true

/-- A step moves TS only to the time it read (R141), which is where the duty goes on from. -/
theorem step_keeps_timeDuty (s t : State) (hs : TimeDutyKept s) (h : step s = .next t) : TimeDutyKept t := by
  obtain ⟨t0, hts, hd⟩ := hs
  refine ⟨(timeRead s).getD t0, fun ts hm => ?_, (timesRise_step hd h).2⟩
  rcases step_ts h ts hm with hr | ⟨hr, hm'⟩
  · simp [hr]
  · simpa [hr] using hts ts hm'

/-- The next step reads no time before TS. -/
theorem elapsed_nonneg_of_timeDuty {s : State} (hs : TimeDutyKept s) :
    ∀ t1 ∈ timeRead s, ∀ ts ∈ s.ts, 0 ≤ elapsed t1 ts := by
  obtain ⟨t0, hts, hd⟩ := hs
  obtain ⟨t, ht⟩ := step_answers s
  intro t1 h1 ts hm
  have hle : ts ≤ t1 := (hts ts hm).trans ((timesRise_step hd ht).1 t1 h1)
  exact sub_nonneg.2 (Int.ofNat_le.2 hle)

/-- Settles O14: the duty with a bound on TS is kept along every run. -/
theorem timeDutyKeepsElapsedNonnegative : Obligations.TimeDutyKeepsElapsedNonnegative := by
  intro s t0 hts hd k
  obtain ⟨t, ht, hk⟩ := runFor_keeps step_keeps_timeDuty k s ⟨t0, hts, hd⟩
  exact ⟨t, ht, elapsed_nonneg_of_timeDuty hk⟩

/-! ### The running handler (spec/43_dispatch.md R160, R162, R166) -/

/-- In BUSY every operation but HRET and TEARDOWN leaves FSM, the registers and PEV (R161, R165). -/
theorem phase_of_exec_busy {i : Instr} {s t : State} {r : Regs} {e : Event} (hp : s.phase = .busy r e)
    (h : exec i s = .next t) (hi : ¬ (i = .hret ∨ i = .teardown)) : t.phase = s.phase := by
  cases i with
  | construct =>
    rw [exec_construct, if_neg (by simp [fsm_of_busy hp])] at h
    cases h
    rfl
  | rotClkf =>
    rw [exec_rotClkf, notify_of_busy _ _ hp] at h
    cases h
    split <;> rfl
  | rotClke => rw [exec_rotClke, notify_of_busy _ _ hp] at h; cases h; rfl
  | rotDte => rw [exec_rotDte, notify_of_busy _ _ hp] at h; cases h; rfl
  | pushF => rw [exec_pushF, notify_of_busy _ _ hp] at h; cases h; rfl
  | hret => exact absurd (.inl rfl) hi
  | teardown => exact absurd (.inr rfl) hi

/-- HRET and TEARDOWN are no source's operation: their words were presented (R210). -/
theorem presented_of_hret_or_teardown {s u : State} {w : Opw} {i : Instr} (hf : fetch s = .word w u)
    (hd : decode w = .op i) (hi : i = .hret ∨ i = .teardown) :
    ∃ b rest, s.input = .present w b :: rest ∧ (w = 0b1100#4 ∨ w = 0b0001#4) := by
  rcases fetch_word_cases hf with ⟨b, rest, hin, _⟩ | ⟨_, _, _, src, _, _, rfl, _⟩
  · refine ⟨b, rest, hin, ?_⟩
    rw [← encode_of_decode hd]
    exact hi.imp (congrArg encode) (congrArg encode)
  · cases (decode_encode_op src).symm.trans hd
    rcases hi with hi | hi <;> cases src <;> cases hi

/-- A step leaves BUSY only by a presented HRET or TEARDOWN (R161). -/
theorem presented_of_step_leaves_busy {s t : State} (h : step s = .next t) (hs : s.fsm = .busy) (ht : t.fsm ≠ .busy) :
    ∃ w b rest, s.input = .present w b :: rest ∧ (w = 0b1100#4 ∨ w = 0b0001#4) := by
  rcases step_cases h with hf | ⟨w, u, i, hf, hd, he⟩ | ⟨w, u, v, hf, _, rfl⟩
  · exact absurd ((fetch_quiet_sameBlock hf).fsm.trans hs) ht
  · have hu : u.fsm = .busy := (fetch_word_sameBlock hf).fsm.trans hs
    obtain ⟨r, e, hp⟩ := fsm_eq_busy.1 hu
    by_cases hi : i = .hret ∨ i = .teardown
    · exact ⟨w, presented_of_hret_or_teardown hf hd hi⟩
    · exact absurd (fsm_of_busy ((phase_of_exec_busy hp he hi).trans hp)) ht
  · exact absurd ((fetch_word_sameBlock hf).fsm.trans hs) ht

/-- A step that ends in BUSY has left the configuration: CONSTRUCT ends in IDLE or FAILED (R34). -/
theorem cfg_of_step_busy {s t : State} (h : step s = .next t) (ht : t.fsm = .busy) : t.cfg = s.cfg := by
  by_contra hc
  obtain ⟨_, _, hidle, _⟩ := configChangedOnlyByConstruct s t h hc
  cases ht.symm.trans hidle

/-- A step that changes EVH enters the handler bound to the event it appends (R160, R162). -/
theorem runningHandler_of_dispatch {s t : State} (h : step s = .next t) (hne : t.evh ≠ s.evh) :
    ∃ e, t.evh = s.evh ++ [e] ∧ s.runningHandler = none ∧ t.runningHandler = some (handlerFor s.cfg e) := by
  rcases eventHistoryGrowsExactlyByDispatch s t h with ⟨he, _⟩ | ⟨e, he, hidle, hbusy, hpev⟩
  · exact absurd he hne
  · refine ⟨e, he, runningHandler_of_not_busy (by simp [hidle]), ?_⟩
    rw [State.runningHandler, hpev, cfg_of_step_busy h hbusy, Option.map_some]

/-- A step that leaves EVH enters no handler, and ends one only by a presented HRET or TEARDOWN (R162, R166, R167). -/
theorem runningHandler_of_evh_eq {s t : State} (h : step s = .next t) (heq : t.evh = s.evh) :
    t.runningHandler = s.runningHandler ∨
      (t.runningHandler = none ∧
        ∃ w b rest, s.input = .present w b :: rest ∧ (w = 0b1100#4 ∨ w = 0b0001#4)) := by
  rcases eventHistoryGrowsExactlyByDispatch s t h with ⟨_, hstay⟩ | ⟨e, he, _⟩
  · by_cases ht : t.fsm = .busy
    · left
      rw [State.runningHandler, State.runningHandler, (hstay ht).2, cfg_of_step_busy h ht]
    · have hnone := runningHandler_of_not_busy ht
      by_cases hs : s.fsm = .busy
      · exact .inr ⟨hnone, presented_of_step_leaves_busy h hs ht⟩
      · exact .inl (hnone.trans (runningHandler_of_not_busy hs).symm)
  · simp [heq] at he

/-- HRET and TEARDOWN in BUSY end the handler (R166; log entry 26). -/
theorem runningHandler_ended {i : Instr} {s : State} {r : Regs} {e : Event} (hp : s.phase = .busy r e)
    (hi : i = .hret ∨ i = .teardown) : ∃ t, exec i s = .next t ∧ t.runningHandler = none := by
  rcases hi with rfl | rfl
  · exact ⟨_, exec_hret_of_busy hp, runningHandler_of_not_busy (by simp)⟩
  · refine ⟨takeDown s, ?_, runningHandler_of_not_busy (by simp)⟩
    rw [exec_teardown, if_pos (.inr (fsm_of_busy hp))]

/-- Settles O44: what a step that grows EVH, one that leaves it, HRET and TEARDOWN do to the handler that runs. -/
theorem dispatchCallsBoundHandler : Obligations.DispatchCallsBoundHandler := by
  refine ⟨fun s t h hne => ?_, fun _ _ => runningHandler_of_evh_eq, fun s i hs hi => ?_⟩
  · obtain ⟨e, he, hs, ht⟩ := runningHandler_of_dispatch h hne
    refine ⟨e, he, hs, ht.trans ?_⟩
    cases e <;> rfl
  · obtain ⟨r, e, hp⟩ := fsm_eq_busy.1 hs
    exact ⟨by simp [runningHandler_of_busy hp], runningHandler_ended hp hi⟩

end Sys2Proof.Proofs
end

section
/-! Proofs of the statements about rotation (spec/41_rotation.md): SampleRotation in IDLE, the events of terminal pairs,
repeated and quiet samples, the canonical detent, and what a rotation leaves. -/

namespace Sys2Proof.Proofs

open Sys2Proof.Machine Sys2Proof.Safety

/-! ### SampleRotation, one equation per case (R105) -/

section Sample

variable {cfg : Config} {b : Bundle} {r : Regs}

theorem sampleRotation_of_pressed (hp : b.p = cfg.pressedLevel) :
    sampleRotation cfg b r = ({ r with ts := b.t }, none) := by
  rw [sampleRotation_eq, if_pos hp]

theorem sampleRotation_of_invalid (hp : b.p ≠ cfg.pressedLevel) (hv : readVT (newCode r.sc b) = 0#1) :
    sampleRotation cfg b r = ({ r with sc := newCode r.sc b }, none) := by
  rw [sampleRotation_eq, if_neg hp, if_pos hv]

theorem sampleRotation_of_valid (hp : b.p ≠ cfg.pressedLevel) (hv : readVT (newCode r.sc b) = 1#1) :
    sampleRotation cfg b r =
      ({ r with sc := newCode r.sc b, hr := pushHistory r.hr (newCode r.sc b) },
        terminalMatch (pushHistory r.hr (newCode r.sc b))) := by
  rw [sampleRotation_eq, if_neg hp, if_neg ((readVT_eq_one_iff _).1 hv)]

/-- Unsuppressed, SC is the new code, valid or not (R101). -/
theorem sampleRotation_sc (hp : b.p ≠ cfg.pressedLevel) : (sampleRotation cfg b r).1.sc = newCode r.sc b := by
  rw [sampleRotation_eq, if_neg hp]
  split <;> rfl

/-- Unsuppressed, HR records the new code exactly when it is valid (R102, R103). -/
theorem sampleRotation_hr (hp : b.p ≠ cfg.pressedLevel) :
    (sampleRotation cfg b r).1.hr =
      if readVT (newCode r.sc b) = 1#1 then pushHistory r.hr (newCode r.sc b) else r.hr := by
  by_cases hv : readVT (newCode r.sc b) = 1#1
  · rw [sampleRotation_of_valid hp hv, if_pos hv]
  · rw [sampleRotation_of_invalid hp (not_not.1 (mt (readVT_eq_one_iff _).2 hv)), if_neg hv]

/-- No rotation writes INITCLK (R28). -/
theorem sampleRotation_initclk : (sampleRotation cfg b r).1.initclk = r.initclk := by
  rcases sampleRotation_cases cfg b r with ⟨_, e⟩ | ⟨_, _, e⟩ | ⟨_, _, e⟩ <;> rw [e]

/-- The two terminal bytes, taken apart into the last valid code and the new one (R122). -/
theorem append_eq_cwPattern_iff (a c : ShiftCode) : a ++ c = 0x2B#8 ↔ c = 0b1011#4 ∧ a = 0b0010#4 := by
  revert a c; decide

theorem append_eq_ccwPattern_iff (a c : ShiftCode) : a ++ c = 0x17#8 ↔ c = 0b0111#4 ∧ a = 0b0001#4 := by
  revert a c; decide

/-- The outcome from the new code and the last valid one alone: a terminal code is valid, so validity need not be asked
(R122). -/
theorem sampleRotation_outcome (hp : b.p ≠ cfg.pressedLevel) :
    (sampleRotation cfg b r).2 =
      if newCode r.sc b = 0b1011#4 ∧ r.hr.extractLsb' 0 4 = 0b0010#4 then some .cw
      else if newCode r.sc b = 0b0111#4 ∧ r.hr.extractLsb' 0 4 = 0b0001#4 then some .ccw
      else none := by
  by_cases hv : readVT (newCode r.sc b) = 0#1
  · have hcw : newCode r.sc b ≠ 0b1011#4 := fun h => absurd hv (by rw [h]; decide)
    have hccw : newCode r.sc b ≠ 0b0111#4 := fun h => absurd hv (by rw [h]; decide)
    rw [sampleRotation_of_invalid hp hv, if_neg (hcw ·.1), if_neg (hccw ·.1)]
  · rw [sampleRotation_of_valid hp ((readVT_eq_one_iff _).2 hv), terminalMatch_pushHistory]
    simp only [append_eq_cwPattern_iff, append_eq_ccwPattern_iff]

/-- An outcome other than NONE comes from an unsuppressed sample that forms one of the two terminal codes. -/
theorem terminal_code_of_outcome (h : (sampleRotation cfg b r).2 ≠ none) :
    newCode r.sc b = 0b1011#4 ∨ newCode r.sc b = 0b0111#4 := by
  by_cases hp : b.p = cfg.pressedLevel
  · exact absurd (congrArg Prod.snd (sampleRotation_of_pressed hp)) h
  · rw [sampleRotation_outcome hp] at h
    split_ifs at h with hcw hccw
    · exact .inl hcw.1
    · exact .inr hccw.1
    · exact absurd rfl h

end Sample

/-! ### The new code (R120) -/

theorem newCode_eq_cw_iff (sc : ShiftCode) (b : Bundle) :
    newCode sc b = 0b1011#4 ↔ lastPair sc = 0b10#2 ∧ b.c = 1 ∧ b.d = 1 := by
  have h : ∀ (p : BitVec 2) (c d : Level), p ++ (c ++ d) = 0b1011#4 ↔ p = 0b10#2 ∧ c = 1 ∧ d = 1 := by decide
  exact h _ _ _

theorem newCode_eq_ccw_iff (sc : ShiftCode) (b : Bundle) :
    newCode sc b = 0b0111#4 ↔ lastPair sc = 0b01#2 ∧ b.c = 1 ∧ b.d = 1 := by
  have h : ∀ (p : BitVec 2) (c d : Level), p ++ (c ++ d) = 0b0111#4 ↔ p = 0b01#2 ∧ c = 1 ∧ d = 1 := by decide
  exact h _ _ _

/-- The sampled pair is the last pair of the code it forms. -/
theorem lastPair_newCode (sc : ShiftCode) (b : Bundle) : lastPair (newCode sc b) = b.c ++ b.d :=
  BitVec.extractLsb'_append_eq_right

/-- The new code is valid exactly when one pin differs from the last pair (R52, R121). -/
theorem readVT_newCode_eq_one_iff (sc : ShiftCode) (b : Bundle) :
    readVT (newCode sc b) = 1#1 ↔ (b.c ≠ sc.extractLsb' 1 1 ↔ b.d = sc.extractLsb' 0 1) := by
  have h : ∀ (sc : ShiftCode) (c d : Level),
      readVT (lastPair sc ++ (c ++ d)) = 1#1 ↔ (c ≠ sc.extractLsb' 1 1 ↔ d = sc.extractLsb' 0 1) := by decide
  exact h _ _ _

/-- A pair that repeats forms an invalid code (R125). -/
theorem repeated_pair_invalid (p : BitVec 2) : p ++ p ∈ [0#4, 5#4, 10#4, 15#4] ∧ readVT (p ++ p) = 0#1 := by
  revert p; decide

/-- Outside the pair 11 no sample gives an event (R123). -/
theorem sampleRotation_silent {b : Bundle} (cfg : Config) (r : Regs) (h : b.c ++ b.d ≠ 0b11#2) :
    (sampleRotation cfg b r).2 = none := by
  by_contra hne
  apply h
  rcases terminal_code_of_outcome hne with hc | hc
  · obtain ⟨_, hc, hd⟩ := (newCode_eq_cw_iff r.sc b).1 hc
    rw [hc, hd]; rfl
  · obtain ⟨_, hc, hd⟩ := (newCode_eq_ccw_iff r.sc b).1 hc
    rw [hc, hd]; rfl

/-! ### A rotation in IDLE -/

/-- Settles O20: the suppression test comes first (R100). -/
theorem suppressedRotationWritesOnlyTs : Obligations.SuppressedRotationWritesOnlyTs := by
  intro s i r hi hs hp
  rw [exec_rotation_of_idle hi hs, sampleRotation_of_pressed hp, dispatch_none]

/-- Settles O21: the shift and history steps as concatenations, then the three results of the terminal match. -/
theorem rotationInIdle : Obligations.RotationInIdle := by
  intro s i r sc hr hi hs hp hsc hhr
  have hcode : sc = newCode r.sc s.port := hsc.trans (shiftCode_eq_append r.sc (s.port.c ++ s.port.d))
  have hpush : hr = pushHistory r.hr sc := hhr
  refine ⟨hcode, hpush.trans (pushHistory_eq_append r.hr sc), ?_⟩
  rw [exec_rotation_of_idle hi hs]
  by_cases hv : readVT sc = 0#1
  · rw [if_pos hv, sampleRotation_of_invalid hp (hcode ▸ hv), ← hcode, dispatch_none]
  · rw [if_neg hv, sampleRotation_of_valid hp (hcode ▸ (readVT_eq_one_iff sc).2 hv), ← hcode, ← hpush]
    rcases terminalMatch_cases hr with ⟨hl, e⟩ | ⟨hl, e⟩ | ⟨hcw, hccw, e⟩ <;> rw [e]
    · rw [if_pos hl]; rfl
    · rw [if_neg (by rw [hl]; decide), if_pos hl]; rfl
    · rw [if_neg hcw, if_neg hccw, dispatch_none]

/-- Settles O23: HR records the valid codes, and those are the single pin changes (R121). -/
theorem historyWrittenExactlyOnSinglePinChange : Obligations.HistoryWrittenExactlyOnSinglePinChange := by
  intro s i r hi hs hp
  refine ⟨_, exec_rotation_of_idle hi hs, ?_⟩
  rw [State.hr, dispatch_regs, Option.map_some, sampleRotation_hr hp]
  simp only [readVT_newCode_eq_one_iff]
  rfl

/-- Settles O24: EVH grows by the outcome (R122). -/
theorem eventExactlyOnTerminalPair : Obligations.EventExactlyOnTerminalPair := by
  intro s i r hi hs hp
  refine ⟨_, exec_rotation_of_idle hi hs, ?_⟩
  rw [dispatch_evh, sampleRotation_outcome hp, apply_ite Option.toList, apply_ite Option.toList]
  rfl

/-! ### A notification in every state -/

section NotifyFrame

variable {src : Source} {f : Config → Bundle → Regs → Regs × Option Event} {s : State}

/-- A notification leaves whatever its datapath function leaves of the registers. -/
theorem notify_regs_map {α : Type} (g : Regs → α)
    (hf : ∀ r, s.phase = .idle r → g (f s.cfg s.port r).1 = g r) :
    (notify src f s).regs.map g = s.regs.map g := by
  rcases notify_cases src f s with ⟨r, hs, e⟩ | ⟨_, e⟩ | ⟨_, e⟩ | ⟨_, e⟩ <;> rw [e]
  · rw [dispatch_regs, regs_of_idle hs, Option.map_some, Option.map_some, hf r hs]
  · rw [hold_regs]
  · rw [raise_regs]

/-- A notification whose outcome is NONE leaves EVH, PEV and FSM. -/
theorem notify_of_no_outcome (hf : ∀ r, s.phase = .idle r → (f s.cfg s.port r).2 = none) :
    (notify src f s).evh = s.evh ∧ (notify src f s).pev = s.pev ∧ (notify src f s).fsm = s.fsm := by
  rcases notify_cases src f s with ⟨r, hs, e⟩ | ⟨_, e⟩ | ⟨_, e⟩ | ⟨_, e⟩ <;> rw [e]
  · rw [hf r hs, pev_of_idle hs, fsm_of_idle hs]
    exact ⟨rfl, rfl, rfl⟩
  · exact ⟨rfl, rfl, rfl⟩
  · exact ⟨rfl, rfl, rfl⟩
  · exact ⟨rfl, rfl, rfl⟩

/-- Outside IDLE a notification leaves FSM with its registers, and EVH (R161). -/
theorem notify_outside_idle (h : s.fsm ≠ .idle) :
    (notify src f s).phase = s.phase ∧ (notify src f s).evh = s.evh := by
  rcases notify_cases src f s with ⟨r, hs, _⟩ | ⟨_, e⟩ | ⟨_, e⟩ | ⟨_, e⟩
  · exact absurd (fsm_of_idle hs) h
  all_goals rw [e]; exact ⟨rfl, rfl⟩

/-- Outside BUSY a notification is not held (R165). -/
theorem notify_pending (h : s.fsm ≠ .busy) : (notify src f s).pending = s.pending := by
  rcases notify_cases src f s with ⟨r, _, e⟩ | ⟨hb, _⟩ | ⟨_, e⟩ | ⟨_, e⟩
  · rw [e, dispatch_pending]
  · exact absurd hb h
  · rw [e]
  · rw [e, raise_pending]

/-- The PROTOCOL fault leaves FLT[0] (R200). -/
theorem setFault_protocol_config (flt : BitVec 2) : setFault .protocol flt &&& 0b01#2 = flt &&& 0b01#2 := by
  revert flt; decide

/-- A notification leaves FLT[0]. -/
theorem notify_flt_config : (notify src f s).flt &&& 0b01#2 = s.flt &&& 0b01#2 := by
  rcases notify_cases src f s with ⟨r, _, e⟩ | ⟨_, e⟩ | ⟨_, e⟩ | ⟨_, e⟩ <;> rw [e]
  · rw [dispatch_flt]
  · rw [hold_flt]
  · rw [raise_flt, setFault_protocol_config]

end NotifyFrame

/-! ### A rotation operation in every state -/

section RotationExec

variable {i : Instr} {s t : State}

/-- A rotation operation is a notification, or only the PROTOCOL fault (R161, R202). -/
theorem exec_rotation_next (hi : i ∈ [Instr.rotClkf, .rotClke, .rotDte]) (h : exec i s = .next t) :
    (∃ src, t = notify src sampleRotation s) ∨ t = raise .protocol s := by
  rcases exec_rotation_cases (by simpa using hi) s with ⟨src, _, e⟩ | ⟨_, _, e⟩ <;> cases e.symm.trans h
  · exact .inl ⟨src, rfl⟩
  · exact .inr rfl

/-- A rotation operation leaves whatever SampleRotation leaves of the registers. -/
theorem exec_rotation_regs_map {α : Type} (hi : i ∈ [Instr.rotClkf, .rotClke, .rotDte]) (h : exec i s = .next t)
    (g : Regs → α) (hg : ∀ r, g (sampleRotation s.cfg s.port r).1 = g r) : t.regs.map g = s.regs.map g := by
  rcases exec_rotation_next hi h with ⟨src, rfl⟩ | rfl
  · exact notify_regs_map g fun r _ => hg r
  · rfl

/-- EVH changes by a rotation operation only in IDLE, on an outcome other than NONE. -/
theorem outcome_of_exec_rotation (hi : i ∈ [Instr.rotClkf, .rotClke, .rotDte]) (h : exec i s = .next t)
    (hne : t.evh ≠ s.evh) : ∃ r, s.phase = .idle r ∧ (sampleRotation s.cfg s.port r).2 ≠ none := by
  by_contra hno
  push Not at hno
  rcases exec_rotation_next hi h with ⟨src, rfl⟩ | rfl
  · obtain ⟨he, _, _⟩ := notify_of_no_outcome (src := src) hno
    exact hne he
  · exact hne rfl

/-- Suppressed, a rotation operation leaves SC, HR, EVH, PEV and FSM (R100). -/
theorem exec_rotation_pressed (hi : i ∈ [Instr.rotClkf, .rotClke, .rotDte]) (h : exec i s = .next t)
    (hp : s.port.p = s.cfg.pressedLevel) :
    t.sc = s.sc ∧ t.hr = s.hr ∧ t.evh = s.evh ∧ t.pev = s.pev ∧ t.fsm = s.fsm := by
  have hsample : ∀ r, sampleRotation s.cfg s.port r = ({ r with ts := s.port.t }, none) :=
    fun _ => sampleRotation_of_pressed hp
  refine ⟨exec_rotation_regs_map hi h Regs.sc fun r => by rw [hsample r],
    exec_rotation_regs_map hi h Regs.hr fun r => by rw [hsample r], ?_⟩
  rcases exec_rotation_next hi h with ⟨src, rfl⟩ | rfl
  · exact notify_of_no_outcome fun r _ => by rw [hsample r]
  · exact ⟨rfl, rfl, rfl⟩

end RotationExec

/-- Settles O25: an event needs a terminal code, whose sampled pair is 11 and whose last pair is 10 or 01 (R123). -/
theorem eventOnlyOnArrivalAtBothHigh : Obligations.EventOnlyOnArrivalAtBothHigh := by
  intro s t i hi h hne
  obtain ⟨r, hs, hout⟩ := outcome_of_exec_rotation hi h hne
  have hsc : r.sc ∈ s.sc := by simp [State.sc, regs_of_idle hs]
  rcases terminal_code_of_outcome hout with hcode | hcode
  · obtain ⟨hlast, hc, hd⟩ := (newCode_eq_cw_iff _ _).1 hcode
    exact ⟨hc, hd, r.sc, hsc, .inr hlast⟩
  · obtain ⟨hlast, hc, hd⟩ := (newCode_eq_ccw_iff _ _).1 hcode
    exact ⟨hc, hd, r.sc, hsc, .inl hlast⟩

/-- Settles O40: DebounceGate writes TS alone, and unsuppressed SampleRotation all but TS (R152). -/
theorem pushAndRotationDatapathsDisjoint : Obligations.PushAndRotationDatapathsDisjoint := by
  refine ⟨fun s t h => ?_, fun s t i hi h hp => ?_⟩
  · cases (exec_pushF s).symm.trans h
    exact ⟨notify_regs_map Regs.sc fun _ _ => rfl, notify_regs_map Regs.hr fun _ _ => rfl⟩
  · exact exec_rotation_regs_map hi h Regs.ts fun r => by simp [sampleRotation_ts, isPressed, readPin, hp]

/-- Settles O54: a rotation operation is a notification that runs SampleRotation, or the PROTOCOL fault. -/
theorem rotationFrame : Obligations.RotationFrame := by
  intro s t i hi h
  refine ⟨exec_rotation_regs_map hi h Regs.initclk fun _ => sampleRotation_initclk, ?_⟩
  have hpressed := exec_rotation_pressed hi h
  rcases exec_rotation_next hi h with ⟨src, rfl⟩ | rfl
  · obtain ⟨hinput, hoffer, hport, hcfg, hrefused⟩ := notify_environment src sampleRotation s
    exact ⟨notify_flt_config, hrefused, hcfg, hoffer, hport, hinput, hpressed, notify_outside_idle, notify_pending⟩
  · exact ⟨setFault_protocol_config s.flt, rfl, rfl, rfl, rfl, rfl, hpressed, fun _ => ⟨rfl, rfl⟩, fun _ => rfl⟩

/-! ### Repeated and quiet samples -/

/-- Two states kept alike by every step are kept alike by every run. -/
theorem alike_runFor {R : Regs → Regs → Prop} (hR : KeptByDatapath R) (k : Nat) :
    ∀ {s t : State}, Alike R s t → ∃ s' t', runFor k s = .next s' ∧ runFor k t = .next t' ∧ Alike R s' t' := by
  induction k with
  | zero => exact fun {s t} h => ⟨s, t, rfl, rfl, h⟩
  | succ k ih =>
    intro s t h
    obtain ⟨u, hu⟩ := step_answers s
    obtain ⟨v, hv, huv⟩ := alike_step hR h hu
    rw [runFor_succ k hu, runFor_succ k hv]
    exact ih huv

/-- A rotation reads SC[1:0] alone of SC, and a push nothing of it, so SC[3:2] never matters. -/
theorem keptByDatapath_oldPair : KeptByDatapath sameButOldPair where
  refl _ := ⟨rfl, rfl, rfl, rfl⟩
  rotation := by
    rintro cfg b x y ⟨hsc, hhr, hts, hclk⟩
    have hcode : newCode y.sc b = newCode x.sc b := congrArg (· ++ (b.c ++ b.d)) hsc
    rw [sampleRotation_eq, sampleRotation_eq, hcode, hhr]
    split_ifs
    · exact ⟨⟨hsc, rfl, rfl, hclk⟩, rfl⟩
    · exact ⟨⟨rfl, rfl, hts, hclk⟩, rfl⟩
    · exact ⟨⟨rfl, rfl, hts, hclk⟩, rfl⟩
  push := by
    rintro cfg b x y ⟨hsc, hhr, hts, hclk⟩
    exact ⟨⟨hsc, hhr, rfl, hclk⟩, by simp only [debounceGate_outcome, hts]⟩

/-- Settles O27: the repeated sample writes SC[3:2] alone, which no later step reads (R125). -/
theorem repeatedSampleChangesNothingLater : Obligations.RepeatedSampleChangesNothingLater := by
  intro s r w b rest hs hin hw hp hpair
  have hcode : newCode r.sc b = lastPair r.sc ++ lastPair r.sc := congrArg (lastPair r.sc ++ ·) hpair
  obtain ⟨hmem, hinvalid⟩ := repeated_pair_invalid (lastPair r.sc)
  have hstep := step_rotation hs hin hw
  rw [sampleRotation_of_invalid hp (hcode ▸ hinvalid), hcode, dispatch_none] at hstep
  refine ⟨⟨hcode ▸ hmem, hstep⟩, fun k => ?_⟩
  rw [runFor_succ k hstep]
  have hlast : lastPair r.sc = lastPair (lastPair r.sc ++ lastPair r.sc) :=
    BitVec.extractLsb'_append_eq_right.symm
  apply alike_runFor keptByDatapath_oldPair k
  refine ⟨?_, rfl, rfl, rfl, rfl, rfl, rfl, rfl⟩
  rw [show ({ s with input := rest } : State).phase = .idle r from hs]
  exact ⟨hlast, rfl, rfl, rfl⟩

/-- Settles O32: no quiet rotation records a code, so each leaves IDLE, HR and EVH (R129). -/
theorem quietSequencesNeverFire : Obligations.QuietSequencesNeverFire := by
  intro s r ops rest hs hin hw hq
  obtain ⟨t, r', ht, hp, hhr, hevh, _, hrest⟩ := runFor_quietSamples ops hs hin hw hq
  exact ⟨t, ht, fsm_of_idle hp, by simp [State.hr, regs_of_idle hp, regs_of_idle hs, hhr], hevh, hrest⟩

/-- Settles O37: the suppressed rotation restarts the window that the push is then inside of (R149). -/
theorem turningWhileHeldShutsWindow : Obligations.TurningWhileHeldShutsWindow := by
  intro s r w b0 b1 rest hs hin hw hp ht
  have h1 := step_rotation hs hin hw
  rw [sampleRotation_of_pressed hp, dispatch_none] at h1
  have h2 := step_pushF (rest := rest) (b := b1) (r := { r with ts := b0.t })
    (s := { s with
      phase := .idle { r with ts := b0.t }
      port := b0
      input := .present 0b1000#4 b1 :: rest }) rfl rfl
  rw [debounceGate_silent ht, dispatch_none] at h2
  rw [runFor_succ 0 h1, runFor_succ 1 h1, runFor_succ 0 h2]
  exact ⟨_, _, rfl, rfl, rfl, rfl, rfl⟩

/-! ### The canonical detent (R128) -/

/-- The registers after rotations with these samples. -/
def turned (cfg : Config) (r : Regs) (bs : List Bundle) : Regs :=
  bs.foldl (fun x b => (sampleRotation cfg b x).1) r

theorem turned_cons (cfg : Config) (r : Regs) (b : Bundle) (bs : List Bundle) :
    turned cfg r (b :: bs) = turned cfg (sampleRotation cfg b r).1 bs := rfl

/-- A rotation word presented with a sample other than 11 writes the registers and stays in IDLE. -/
theorem step_silentRotation {s : State} {r : Regs} {w : Opw} {b : Bundle} {rest : List Turn} (hs : s.phase = .idle r)
    (hin : s.input = .present w b :: rest) (hw : IsRotationWord s.cfg w) (hb : b.c ++ b.d ≠ 0b11#2) :
    step s = .next { s with phase := .idle (sampleRotation s.cfg b r).1, port := b, input := rest } := by
  rw [step_rotation hs hin hw, sampleRotation_silent _ _ hb, dispatch_none]

/-- Rotations none of which samples 11 give no event, and each of them leaves the registers it turns to. -/
theorem runFor_silentRotations (ops : List (Opw × Bundle)) : ∀ {s : State} {r : Regs} {rest : List Turn},
    s.phase = .idle r → s.input = (ops.map fun o => .present o.1 o.2) ++ rest →
    (∀ o ∈ ops, IsRotationWord s.cfg o.1) → (∀ o ∈ ops, o.2.c ++ o.2.d ≠ 0b11#2) → ∀ k ≤ ops.length,
    ∃ t, runFor k s = .next t ∧ t.phase = .idle (turned s.cfg r ((ops.take k).map Prod.snd)) ∧ t.evh = s.evh ∧
      t.cfg = s.cfg ∧ t.input = ((ops.drop k).map fun o => .present o.1 o.2) ++ rest := by
  induction ops with
  | nil =>
    intro s r rest hs hin _ _ k hk
    cases Nat.le_zero.1 hk
    exact ⟨s, rfl, hs, rfl, rfl, hin⟩
  | cons o ops ih =>
    intro s r rest hs hin hw hb k hk
    cases k with
    | zero => exact ⟨s, rfl, hs, rfl, rfl, hin⟩
    | succ k =>
      have hstep := step_silentRotation hs hin (hw o List.mem_cons_self) (hb o List.mem_cons_self)
      rw [runFor_succ k hstep]
      exact ih
        (s := { s with
          phase := .idle (sampleRotation s.cfg o.2 r).1
          port := o.2
          input := (ops.map fun o => .present o.1 o.2) ++ rest })
        rfl rfl (fun x hx => hw x (List.mem_cons_of_mem o hx)) (fun x hx => hb x (List.mem_cons_of_mem o hx))
        k (Nat.le_of_succ_le_succ hk)

/-- Such rotations followed by one more, which dispatches its outcome. -/
theorem runFor_silentRotations_then {ops : List (Opw × Bundle)} {s : State} {r : Regs} {w : Opw} {b : Bundle}
    {rest : List Turn} (hs : s.phase = .idle r)
    (hin : s.input = (ops.map fun o => .present o.1 o.2) ++ .present w b :: rest)
    (hw : ∀ o ∈ ops, IsRotationWord s.cfg o.1) (hb : ∀ o ∈ ops, o.2.c ++ o.2.d ≠ 0b11#2)
    (hw' : IsRotationWord s.cfg w) :
    ∃ u, u.evh = s.evh ∧ runFor (ops.length + 1) s =
      .next (dispatch (sampleRotation s.cfg b (turned s.cfg r (ops.map Prod.snd))).2
        (sampleRotation s.cfg b (turned s.cfg r (ops.map Prod.snd))).1 u) := by
  obtain ⟨t, ht, hp, hevh, hcfg, hrest⟩ := runFor_silentRotations ops hs hin hw hb ops.length le_rfl
  rw [List.take_length] at hp
  rw [List.drop_length] at hrest
  refine ⟨{ t with port := b, input := rest }, hevh, ?_⟩
  rw [runFor_add _ 1 ht, runFor_succ 0 (step_rotation hp hrest (hcfg.symm ▸ hw')), hcfg, runFor_zero]

section Turned

variable {cfg : Config} {b₂ b₃ b₄ : Bundle}

/-- After one unsuppressed sample SC holds the old last pair and the sample's (R120). -/
theorem turned_sc_one (r : Regs) (h₂ : b₂.p ≠ cfg.pressedLevel) :
    (turned cfg r [b₂]).sc = lastPair r.sc ++ (b₂.c ++ b₂.d) :=
  sampleRotation_sc h₂

/-- After two unsuppressed samples SC holds their pairs (R120). -/
theorem turned_sc_two (r : Regs) (h₂ : b₂.p ≠ cfg.pressedLevel) (h₃ : b₃.p ≠ cfg.pressedLevel) :
    (turned cfg r [b₂, b₃]).sc = (b₂.c ++ b₂.d) ++ (b₃.c ++ b₃.d) := by
  show (sampleRotation cfg b₃ (sampleRotation cfg b₂ r).1).1.sc = _
  rw [sampleRotation_sc h₃, sampleRotation_sc h₂, newCode, lastPair_newCode]

/-- After three unsuppressed samples that form two valid codes, the low byte of HR is those codes, and the outcome is its
terminal match (R103, R104). -/
theorem sampleRotation_turned (r : Regs) (h₂ : b₂.p ≠ cfg.pressedLevel) (h₃ : b₃.p ≠ cfg.pressedLevel)
    (h₄ : b₄.p ≠ cfg.pressedLevel) (hv : readVT ((b₂.c ++ b₂.d) ++ (b₃.c ++ b₃.d)) = 1#1)
    (hv' : readVT ((b₃.c ++ b₃.d) ++ (b₄.c ++ b₄.d)) = 1#1) :
    ∃ hr : History, hr.extractLsb' 0 8 =
        ((b₂.c ++ b₂.d) ++ (b₃.c ++ b₃.d)) ++ ((b₃.c ++ b₃.d) ++ (b₄.c ++ b₄.d)) ∧
      (sampleRotation cfg b₄ (turned cfg r [b₂, b₃])).1.hr = hr ∧
      (sampleRotation cfg b₄ (turned cfg r [b₂, b₃])).2 = terminalMatch hr := by
  have hcode : newCode (sampleRotation cfg b₂ r).1.sc b₃ = (b₂.c ++ b₂.d) ++ (b₃.c ++ b₃.d) := by
    rw [sampleRotation_sc h₂, newCode, lastPair_newCode]
  have hcode' : newCode (turned cfg r [b₂, b₃]).sc b₄ = (b₃.c ++ b₃.d) ++ (b₄.c ++ b₄.d) := by
    rw [turned_sc_two r h₂ h₃, newCode, lastPair, BitVec.extractLsb'_append_eq_right]
  have hnibble : (turned cfg r [b₂, b₃]).hr.extractLsb' 0 4 = (b₂.c ++ b₂.d) ++ (b₃.c ++ b₃.d) := by
    show (sampleRotation cfg b₃ (sampleRotation cfg b₂ r).1).1.hr.extractLsb' 0 4 = _
    rw [sampleRotation_hr h₃, hcode, if_pos hv, pushHistory_nibble0]
  rw [sampleRotation_of_valid h₄ (hcode' ▸ hv'), hcode']
  exact ⟨_, by rw [pushHistory_low_byte, hnibble], rfl, rfl⟩

end Turned

section Detent

variable {s : State} {r : Regs} {w₁ w₂ w₃ w₄ : Opw} {b₁ b₂ b₃ b₄ : Bundle} {rest : List Turn} {p : BitVec 2}

/-- Four unsuppressed rotations whose last three sample 00, `p` and 11, where `p` is 01 or 10: the first three are silent,
and the fourth gives the terminal match of the two codes they form. -/
theorem runFor_detent (hs : s.phase = .idle r)
    (hin : s.input = .present w₁ b₁ :: .present w₂ b₂ :: .present w₃ b₃ :: .present w₄ b₄ :: rest)
    (hw : ∀ w ∈ [w₁, w₂, w₃, w₄], IsRotationWord s.cfg w) (hb : ∀ b ∈ [b₁, b₂, b₃, b₄], b.p ≠ s.cfg.pressedLevel)
    (h₁ : b₁.c ++ b₁.d ≠ 0b11#2) (h₂ : b₂.c ++ b₂.d = 0b00#2) (h₃ : b₃.c ++ b₃.d = p)
    (h₄ : b₄.c ++ b₄.d = 0b11#2) (hp : p = 0b01#2 ∨ p = 0b10#2) :
    (∀ k ≤ 3, ∃ t, runFor k s = .next t ∧ t.evh = s.evh ∧
      t.sc = some (turned s.cfg r ([b₁, b₂, b₃].take k)).sc) ∧
    ∃ t, ∃ hr : History, runFor 4 s = .next t ∧ hr.extractLsb' 0 8 = (0b00#2 ++ p) ++ (p ++ 0b11#2) ∧
      t.sc = some (p ++ 0b11#2) ∧ t.hr = some hr ∧
      t.evh = s.evh ++ (terminalMatch hr).toList ∧ t.fsm = if (terminalMatch hr).isSome then .busy else .idle := by
  simp only [List.forall_mem_cons] at hw hb
  obtain ⟨hw₁, hw₂, hw₃, hw₄, _⟩ := hw
  obtain ⟨_, hb₂, hb₃, hb₄, _⟩ := hb
  have hwords : ∀ o ∈ [(w₁, b₁), (w₂, b₂), (w₃, b₃)], IsRotationWord s.cfg o.1 := by
    simp only [List.forall_mem_cons]
    exact ⟨hw₁, hw₂, hw₃, by simp⟩
  have hvalid : p ≠ 0b11#2 ∧ readVT (0b00#2 ++ p) = 1#1 ∧ readVT (p ++ 0b11#2) = 1#1 := by
    rcases hp with rfl | rfl <;> decide
  obtain ⟨hp11, hv₃, hv₄⟩ := hvalid
  have hsilent : ∀ o ∈ [(w₁, b₁), (w₂, b₂), (w₃, b₃)], o.2.c ++ o.2.d ≠ 0b11#2 := by
    simp only [List.forall_mem_cons, h₂, h₃]
    exact ⟨h₁, by decide, hp11, by simp⟩
  constructor
  · intro k hk
    obtain ⟨t, ht, hphase, hevh, _⟩ := runFor_silentRotations _ hs hin hwords hsilent k hk
    rw [List.map_take] at hphase
    exact ⟨t, ht, hevh, by rw [State.sc, regs_of_idle hphase]; rfl⟩
  · obtain ⟨u, hevh, ht⟩ :=
      runFor_silentRotations_then (ops := [(w₁, b₁), (w₂, b₂), (w₃, b₃)]) hs hin hwords hsilent hw₄
    obtain ⟨hr, hlow, hhr, hout⟩ :=
      sampleRotation_turned (sampleRotation s.cfg b₁ r).1 hb₂ hb₃ hb₄ (by rwa [h₂, h₃]) (by rwa [h₃, h₄])
    have hsc := sampleRotation_sc (r := turned s.cfg r [b₁, b₂, b₃]) hb₄
    rw [turned_cons, newCode, turned_sc_two _ hb₂ hb₃, lastPair, BitVec.extractLsb'_append_eq_right, h₃, h₄] at hsc
    rw [h₂, h₃, h₄] at hlow
    refine ⟨_, hr, ht, hlow, ?_, ?_, ?_, ?_⟩
    · rw [State.sc, dispatch_regs]; exact congrArg some hsc
    · rw [State.hr, dispatch_regs]; exact congrArg some hhr
    · rw [dispatch_evh, hevh]; exact congrArg (s.evh ++ ·.toList) hout
    · rw [dispatch_fsm]; exact congrArg (fun o : Option Event => if o.isSome then Fsm.busy else .idle) hout

end Detent

/-- Settles O31: the detent with 10 as its third sample, and with 01, its mirror (R128). -/
theorem canonicalDetent : Obligations.CanonicalDetent := by
  constructor
  · intro s r w1 w2 w3 w4 b1 b2 b3 b4 rest hs hin hw hb h1 h2 h3 h4
    obtain ⟨run, t4, hr, e4, hlow, hsc4, hhr, hevh, hfsm⟩ :=
      runFor_detent hs hin hw hb (by rw [h1]; decide) h2 h3 h4 (.inr rfl)
    obtain ⟨t1, e1, hevh1, hsc1⟩ := run 1 (by decide)
    obtain ⟨t2, e2, hevh2, hsc2⟩ := run 2 (by decide)
    obtain ⟨t3, e3, hevh3, hsc3⟩ := run 3 (by decide)
    have hcw : terminalMatch hr = some .cw := if_pos hlow
    simp only [List.forall_mem_cons] at hb
    obtain ⟨hb1, hb2, hb3, _⟩ := hb
    rw [List.take_succ_cons, List.take_zero, turned_sc_one r hb1, h1] at hsc1
    have hsc2' : t2.sc = some 4 := hsc2.trans (congrArg some ((turned_sc_two r hb1 hb2).trans (by rw [h1, h2]; decide)))
    have hsc3' : t3.sc = some 2 :=
      hsc3.trans (congrArg some ((turned_sc_two (sampleRotation s.cfg b1 r).1 hb2 hb3).trans (by rw [h2, h3]; decide)))
    rw [hcw] at hevh hfsm
    refine ⟨t1, t2, t3, t4, e1, e2, e3, e4, hevh1, hevh2, hevh3, hevh, hfsm, hsc1, ?_, ?_, ?_, ?_, hsc2', hsc3', hsc4,
      by rw [hhr, Option.map_some, hlow]; rfl⟩ <;> intro hlast <;> rw [hsc1, hlast]
    · rfl
    · rfl
    · exact ⟨rfl, by decide⟩
    · exact ⟨rfl, by decide⟩
  · intro s r w1 w2 w3 w4 b1 b2 b3 b4 rest hs hin hw hb h1 h2 h3 h4
    obtain ⟨run, t4, hr, e4, hlow, _, hhr, hevh, hfsm⟩ :=
      runFor_detent hs hin hw hb (by rw [h1]; decide) h2 h3 h4 (.inl rfl)
    obtain ⟨t3, e3, hevh3, _⟩ := run 3 le_rfl
    have hccw : terminalMatch hr = some .ccw := by
      rw [terminalMatch, hlow]; decide
    rw [hccw] at hevh hfsm
    exact ⟨t3, t4, e3, e4, hevh3, hevh, hfsm, by rw [hhr, Option.map_some, hlow]; rfl⟩

end Sys2Proof.Proofs
end

section
/-! Proofs of the statements about push (spec/42_push.md): PUSH.F in IDLE, the window, trains of presses, the frame. -/

namespace Sys2Proof.Proofs

open Sys2Proof.Machine Sys2Proof.Safety

/-! ### PUSH.F in IDLE -/

/-- PUSH.F in IDLE runs DebounceGate and dispatches its outcome (R161, R164). -/
theorem exec_pushF_of_idle {s : State} {r : Regs} (h : s.phase = .idle r) :
    exec .pushF s = .next (dispatch (debounceGate s.cfg s.port r).2 { r with ts := s.port.t } s) := by
  rw [exec_pushF, notify_of_idle _ _ h, debounceGate_regs]

/-- Past the push window a pressed push gives PUSH (R142). -/
theorem debounceGate_push {cfg : Config} {b : Bundle} {r : Regs} (hp : b.p = cfg.pressedLevel)
    (ht : r.ts + cfg.pushTimeTicks < b.t) : (debounceGate cfg b r).2 = some .push := by
  rw [debounceGate_outcome, if_pos ⟨by omega, hp⟩]

/-- A released push gives no event, whatever its time (R142). -/
theorem debounceGate_released {cfg : Config} {b : Bundle} {r : Regs} (hp : b.p ≠ cfg.pressedLevel) :
    (debounceGate cfg b r).2 = none := by
  rw [debounceGate_outcome, if_neg fun h => hp h.2]

/-- Settles O33: the two outcomes of DebounceGate, each with its dispatch. -/
theorem pushInIdle : Obligations.PushInIdle := by
  intro s r hs
  rw [exec_pushF_of_idle hs, debounceGate_outcome]
  split_ifs
  · rfl
  · rfl

/-- Settles O34: the threshold is inside the window, one tick more is past it (R146). -/
theorem windowOpensStrictlyAfterThreshold : Obligations.WindowOpensStrictlyAfterThreshold := by
  refine ⟨fun s r hs _ ht => ⟨_, exec_pushF_of_idle hs, ?_⟩, fun s r hs hp ht => ⟨_, exec_pushF_of_idle hs, ?_⟩⟩
  · rw [debounceGate_silent ht.le]
    exact ⟨rfl, rfl⟩
  · rw [debounceGate_push hp (ht ▸ Nat.lt_succ_self _)]
    exact ⟨rfl, rfl, rfl⟩

/-- Settles O35: released, DebounceGate writes TS and gives NONE (R150). -/
theorem releasedPushOnlyWritesTs : Obligations.ReleasedPushOnlyWritesTs := by
  intro s r hs hp
  rw [exec_pushF_of_idle hs, debounceGate_released hp, dispatch_none]

/-! ### Push edges one after another -/

/-- A PUSH.F presented inside the window writes TS and stays in IDLE. -/
theorem step_pushF_silent {s : State} {r : Regs} {b : Bundle} {rest : List Turn} (hs : s.phase = .idle r)
    (hin : s.input = .present 0b1000#4 b :: rest) (ht : b.t ≤ r.ts + s.cfg.pushTimeTicks) :
    step s = .next { s with phase := .idle { r with ts := b.t }, port := b, input := rest } := by
  rw [step_pushF hs hin, debounceGate_silent ht, debounceGate_regs, dispatch_none]

/-- A pressed PUSH.F presented past the window enters the handler of PUSH. -/
theorem step_pushF_push {s : State} {r : Regs} {b : Bundle} {rest : List Turn} (hs : s.phase = .idle r)
    (hin : s.input = .present 0b1000#4 b :: rest) (hp : b.p = s.cfg.pressedLevel)
    (ht : r.ts + s.cfg.pushTimeTicks < b.t) :
    step s = .next (emit .push { r with ts := b.t } { s with port := b, input := rest }) := by
  rw [step_pushF hs hin, debounceGate_push hp ht, debounceGate_regs, dispatch_some]

/-- A presented HRET ends the handler that runs (R166). -/
theorem step_hret_of_busy {s : State} {r : Regs} {e : Event} {b : Bundle} {rest : List Turn} (hs : s.phase = .busy r e)
    (hin : s.input = .present 0b1100#4 b :: rest) :
    step s = .next (handlerReturn r { s with port := b, input := rest }) := by
  rw [step_present hin (i := .hret) rfl]
  exact exec_hret_of_busy hs

/-- A push train inside the window writes TS alone of the registers, and leaves IDLE and EVH: each edge moves the window
on to its own time. -/
theorem runFor_pushTrain (bs : List Bundle) : ∀ {s : State} {r : Regs} {rest : List Turn},
    s.phase = .idle r → s.input = (bs.map fun b => .present 0b1000#4 b) ++ rest →
    gapsWithin s.cfg.pushTimeTicks r.ts bs →
    ∃ t ts, runFor bs.length s = .next t ∧ t.phase = .idle { r with ts := ts } ∧ t.evh = s.evh ∧ t.input = rest := by
  induction bs with
  | nil => exact fun {s r _} hs hin _ => ⟨s, r.ts, rfl, hs, rfl, hin⟩
  | cons b bs ih =>
    rintro s r rest hs hin ⟨ht, hgaps⟩
    obtain ⟨t, ts, hrun, hphase, hevh, hrest⟩ :=
      ih (s := { s with
            phase := .idle { r with ts := b.t }
            port := b
            input := (bs.map fun b => .present 0b1000#4 b) ++ rest })
        rfl rfl hgaps
    exact ⟨t, ts, (runFor_succ _ (step_pushF_silent hs hin ht)).trans hrun, hphase, hevh, hrest⟩

/-- Settles O38: along the train the registers differ from the old ones in TS alone (R147). -/
theorem pushTrainInsideWindowIsSilent : Obligations.PushTrainInsideWindowIsSilent := by
  intro s r bs rest hs hin hgaps
  obtain ⟨t, ts, hrun, hphase, hevh, hrest⟩ := runFor_pushTrain bs hs hin hgaps
  refine ⟨t, hrun, fsm_of_idle hphase, hevh, ?_, ?_, hrest⟩
  · rw [State.sc, State.sc, regs_of_idle hphase, regs_of_idle hs]; rfl
  · rw [State.hr, State.hr, regs_of_idle hphase, regs_of_idle hs]; rfl

/-- A press past the window and the return of its handler: one PUSH in EVH, and the press in TS, which HRET leaves. -/
theorem runFor_press_return {s : State} {r : Regs} {b b' : Bundle} {rest : List Turn} (hs : s.phase = .idle r)
    (hin : s.input = .present 0b1000#4 b :: .present 0b1100#4 b' :: rest) (hp : b.p = s.cfg.pressedLevel)
    (ht : r.ts + s.cfg.pushTimeTicks < b.t) :
    ∃ t, runFor 2 s = .next t ∧ t.phase = .idle { r with ts := b.t } ∧ t.evh = s.evh ++ [.push] ∧ t.cfg = s.cfg ∧
      t.input = rest :=
  ⟨_, (runFor_succ 1 (step_pushF_push hs hin hp ht)).trans (runFor_succ 0 (step_hret_of_busy rfl rfl)),
    rfl, rfl, rfl, rfl⟩

/-- Settles O39: the second press is measured against the time of the first, which HRET has left in TS (R151). -/
theorem twoCleanPresses : Obligations.TwoCleanPresses := by
  intro s r b1 b2 b3 rest hs hin hp1 hp3 ht1 _
  obtain ⟨u, hu, hphase, hevh, hcfg, hrest⟩ := runFor_press_return hs hin hp1 ht1
  refine ⟨_, (runFor_add 2 1 hu).trans (runFor_succ 0 (step_pushF hphase hrest)), ?_⟩
  rw [dispatch_evh, hcfg]
  show u.evh ++ _ = _
  rw [hevh, List.append_assoc]
  split_ifs with ht3
  · rw [debounceGate_push hp3 ht3]; rfl
  · rw [debounceGate_silent (not_lt.1 ht3)]; rfl

/-! ### PUSH.F in every state -/

/-- Settles O55: PUSH.F is a notification that runs DebounceGate, which writes TS alone. -/
theorem pushFrame : Obligations.PushFrame := by
  intro s t h
  cases (exec_pushF s).symm.trans h
  obtain ⟨hinput, hoffer, hport, hcfg, hrefused⟩ := notify_environment .pushFalling debounceGate s
  exact ⟨notify_regs_map Regs.sc fun _ _ => rfl, notify_regs_map Regs.hr fun _ _ => rfl,
    notify_regs_map Regs.initclk fun _ _ => rfl, notify_flt_config, hrefused, hcfg, hoffer, hport, hinput,
    notify_outside_idle, notify_pending⟩

end Sys2Proof.Proofs
end

section
/-! Proofs of the statements about the dispatch (spec/43_dispatch.md): the lifecycle operations, the notifications outside IDLE,
the moves of FSM, the waiting notifications, and when a run has ended. -/

namespace Sys2Proof.Proofs

open Sys2Proof.Machine Sys2Proof.Safety

/-! ### TEARDOWN, HRET and CONSTRUCT -/

theorem exec_teardown_of_running {s : State} (h : Running s) : exec .teardown s = .next (takeDown s) := by
  rw [exec_teardown, if_pos h]

theorem exec_hret_of_down {s : State} (h : s.fsm = .down) : exec .hret s = .next s := by
  rw [exec_hret_of_not_busy (by simp [h]), if_pos h]

/-- Settles O17: TEARDOWN takes a running block down and does nothing elsewhere (R167). -/
theorem teardownInEveryState : Obligations.TeardownInEveryState := by
  refine ⟨fun s hs => exec_teardown_of_running hs, fun s hs => ?_⟩
  rw [exec_teardown, if_neg hs]

/-- Settles O18: HRET returns from the handler, is dropped in DOWN, and is the PROTOCOL fault elsewhere (R166). -/
theorem hretInEveryState : Obligations.HretInEveryState := by
  refine ⟨fun s r e hp => exec_hret_of_busy hp, fun s hs => exec_hret_of_down hs, fun s hs => ?_⟩
  obtain ⟨hbusy, hdown⟩ : s.fsm ≠ .busy ∧ s.fsm ≠ .down := by rcases hs with h | h | h <;> simp [h]
  rw [exec_hret_of_not_busy hbusy, if_neg hdown]
  rfl

/-- The lifecycle and host operations leave EVH. -/
theorem evh_of_exec_lifecycle {i : Instr} {s t : State} (hi : i ∈ [Instr.construct, .teardown, .hret])
    (h : exec i s = .next t) : t.evh = s.evh := by
  simp only [List.mem_cons, List.not_mem_nil, or_false] at hi
  rcases hi with rfl | rfl | rfl
  · cases (exec_construct s).symm.trans h
    split <;> simp [build_environment]
  · cases (exec_teardown s).symm.trans h
    split <;> rfl
  · rcases exec_hret_cases s with ⟨_, _, _, e⟩ | ⟨_, e⟩ | ⟨_, e⟩ <;> cases e.symm.trans h <;> rfl

theorem not_running_of_off_or_down {s : State} (h : s.fsm = .off ∨ s.fsm = .down) : ¬ Running s := by
  rcases h with h | h <;> simp [Running, h]

/-- CONSTRUCT leaves the waiting notifications, and in a running block only raises the PROTOCOL fault (R202, R240). -/
theorem construct_frame {s t : State} (h : exec .construct s = .next t) :
    t.pending = s.pending ∧ (Running s → t.phase = s.phase ∧ t.cfg = s.cfg) := by
  rcases exec_construct_cases s with ⟨hs, e⟩ | ⟨_, e⟩ <;> cases e.symm.trans h
  · exact ⟨by simp [build_environment], fun hr => absurd hr (not_running_of_off_or_down hs)⟩
  · exact ⟨rfl, fun _ => ⟨rfl, rfl⟩⟩

theorem teardown_frame {s t : State} (h : exec .teardown s = .next t) : t.flt = s.flt ∧ t.cfg = s.cfg := by
  cases (exec_teardown s).symm.trans h
  split <;> exact ⟨rfl, rfl⟩

/-- HRET leaves the registers, FLT[0], the configuration and the waiting notifications (R166). -/
theorem hret_frame {s t : State} (h : exec .hret s = .next t) :
    t.regs = s.regs ∧ t.flt &&& 0b01#2 = s.flt &&& 0b01#2 ∧ t.cfg = s.cfg ∧ t.pending = s.pending := by
  rcases exec_hret_cases s with ⟨r, e, hp, he⟩ | ⟨_, he⟩ | ⟨_, he⟩ <;> cases he.symm.trans h
  · exact ⟨by rw [handlerReturn_regs, regs_of_busy hp], rfl, rfl, rfl⟩
  · exact ⟨rfl, rfl, rfl, rfl⟩
  · exact ⟨rfl, setFault_protocol_config s.flt, rfl, rfl⟩

/-- Settles O56: the environment's side is left by every operation, the rest operation by operation. -/
theorem lifecycleFrame : Obligations.LifecycleFrame := by
  refine ⟨fun s t i hi h => ?_, fun _ _ => construct_frame, fun _ _ => teardown_frame, fun s t h => ?_⟩
  · obtain ⟨t', ht, hinput, hoffer, hport, hrefused⟩ := exec_answers i s
    cases ht.symm.trans h
    exact ⟨evh_of_exec_lifecycle hi h, hrefused, hoffer, hport, hinput⟩
  · obtain ⟨hregs, hflt, hcfg, hpending⟩ := hret_frame h
    exact ⟨congrArg (Option.map Regs.sc) hregs, congrArg (Option.map Regs.hr) hregs,
      congrArg (Option.map Regs.ts) hregs, congrArg (Option.map Regs.initclk) hregs, hflt, hcfg, hpending⟩

/-! ### The operation of a source outside IDLE -/

/-- The operation of a source of the configuration is its notification (R210). -/
theorem exec_source {s : State} {src : Source} (hs : Config.hasSource s.cfg src = true) :
    ∃ f, exec (Source.op src) s = .next (notify src f s) := by
  cases src with
  | pushFalling => exact ⟨_, exec_pushF s⟩
  | clkFalling => exact ⟨_, (exec_rotClkf s).trans (congrArg _ (if_pos hs))⟩
  | clkEither => exact ⟨_, exec_rotClke s⟩
  | dtEither => exact ⟨_, exec_rotDte s⟩

theorem exec_source_of_busy {s : State} {src : Source} (hb : s.fsm = .busy)
    (hs : Config.hasSource s.cfg src = true) : exec (Source.op src) s = .next (hold src s) := by
  obtain ⟨r, e, hp⟩ := fsm_eq_busy.1 hb
  obtain ⟨f, hf⟩ := exec_source hs
  rw [hf, notify_of_busy _ _ hp]

/-- Settles O41: in BUSY a notification is held (R165). -/
theorem heldNotificationChangesNoRegister : Obligations.HeldNotificationChangesNoRegister :=
  fun _ _ hb hs => exec_source_of_busy hb hs

/-- Settles O45: in DOWN a notification of the configuration's sources and HRET are dropped (R168). -/
theorem downDropsNotifications : Obligations.DownDropsNotifications := by
  refine ⟨fun s src hd hs => ?_, fun s hd => exec_hret_of_down hd⟩
  obtain ⟨f, hf⟩ := exec_source hs
  rw [hf, notify_of_down _ _ (fsm_eq_down.1 hd)]

/-- Settles O8: the turn presents the word of the source's operation. -/
theorem pendingNotificationTakenUp : Obligations.PendingNotificationTakenUp :=
  fun _ _ _ _ src hin hk => step_of_word (fetch_run_some hin hk) (decode_encode_op src)

theorem runFor_one (s : State) : runFor 1 s = step s := by
  obtain ⟨t, ht⟩ := step_answers s
  rw [runFor_succ 0 ht, runFor_zero, ht]

/-- Settles O42: the notification is held at the end of the list, HRET returns, and the third turn takes up the last of the
list, which leaves those before it (R165, R166). -/
theorem heldNotificationRunsAfterReturn : Obligations.HeldNotificationRunsAfterReturn := by
  intro s r e src b0 b1 b2 rest hp hs hin
  have hheld := (step_present hin (decode_encode_op src)).trans (exec_source_of_busy (fsm_of_busy hp) hs)
  calc runFor 3 s
    _ = runFor 2 { s with
          pending := s.pending ++ [src], port := b0
          input := .present 0b1100#4 b1 :: .run s.pending.length b2 :: rest } := runFor_succ 2 hheld
    _ = runFor 1 { s with
          phase := .idle r, pending := s.pending ++ [src], port := b1, input := .run s.pending.length b2 :: rest } :=
      runFor_succ 1 (step_hret_of_busy hp rfl)
    _ = exec (Source.op src) { s with
          phase := .idle r, pending := (s.pending ++ [src]).eraseIdx s.pending.length, port := b2, input := rest } :=
      (runFor_one _).trans (pendingNotificationTakenUp _ _ b2 rest src rfl (by simp))
    _ = exec (Source.op src) { s with phase := .idle r, port := b2, input := rest } := by
      rw [List.eraseIdx_append_of_length_le le_rfl, Nat.sub_self]
      simp

/-! ### The moves of FSM (R161, R220) -/

/-- FSM stays, or moves along a row of the transition table. -/
def FsmStep (s t : State) : Prop :=
  t.fsm = s.fsm ∨
    (s.fsm, t.fsm) ∈ [(Fsm.off, Fsm.idle), (.off, .failed), (.idle, .busy), (.idle, .down), (.busy, .idle),
      (.busy, .down), (.down, .idle), (.down, .failed)]

theorem fsmStep_build {s : State} (hs : s.fsm = .off ∨ s.fsm = .down) : FsmStep s (build s) := by
  have hb : (build s).fsm = .idle ∨ (build s).fsm = .failed :=
    (build_cases s).imp (fun ⟨_, e⟩ => by rw [e]; rfl) fun ⟨_, e⟩ => by rw [e]; rfl
  rcases hs with h | h <;> rcases hb with h' | h' <;> simp [FsmStep, h, h']

theorem fsmStep_dispatch {s : State} {r : Regs} (h : s.phase = .idle r) (o : Option Event) (r' : Regs) :
    FsmStep s (dispatch o r' s) := by
  cases o <;> simp [FsmStep, fsm_of_idle h]

theorem fsmStep_executed {u t : State} (h : Executed u t) : FsmStep u t := by
  cases h with
  | unchanged => exact .inl rfl
  | faulted => exact .inl rfl
  | held => exact .inl rfl
  | built hs => exact fsmStep_build hs
  | takenDown hs => rcases hs with h | h <;> simp [FsmStep, h]
  | returned r e hp => simp [FsmStep, fsm_of_busy hp]
  | rotated r hp => exact fsmStep_dispatch hp _ _
  | pushed r hp => exact fsmStep_dispatch hp _ _

/-- Settles O51: only an operation moves FSM, and each along the table. -/
theorem fsmMovesOnlyAlongTable : Obligations.FsmMovesOnlyAlongTable := by
  intro s t h
  obtain ⟨u, hu, ht⟩ := step_effect h
  have hut : FsmStep u t := by
    rcases ht with rfl | rfl | he
    · exact .inl rfl
    · exact .inl rfl
    · exact fsmStep_executed he
  rwa [FsmStep, hu.fsm] at hut

/-! ### The duties on what is presented (R171, R202, R203) -/

/-- An operation that an environment with the duties of R171 may present in a state: `presentsLawfully` of the operation. -/
def lawful (s : State) : Instr → Bool
  | .construct => decide (s.fsm = .off ∨ s.fsm = .down)
  | .teardown => true
  | .rotClkf => s.cfg.clkFallingDup && decide (s.fsm ≠ .off ∧ s.fsm ≠ .failed)
  | .rotClke => decide (s.fsm ≠ .off ∧ s.fsm ≠ .failed)
  | .rotDte => decide (s.fsm ≠ .off ∧ s.fsm ≠ .failed)
  | .pushF => decide (s.fsm ≠ .off ∧ s.fsm ≠ .failed)
  | .hret => decide (s.fsm = .busy ∨ s.fsm = .down)

theorem presentsLawfully_of_quiet {s t : State} (hf : fetch s = .quiet t) : presentsLawfully s = true := by
  simp only [presentsLawfully, hf]

theorem presentsLawfully_of_op {s u : State} {w : Opw} {i : Instr} (hf : fetch s = .word w u) (hd : decode w = .op i) :
    presentsLawfully s = lawful u i := by
  cases i <;> simp only [presentsLawfully, hf, hd, lawful]

theorem presentsLawfully_of_reserved {s u : State} {w v : Opw} (hf : fetch s = .word w u) (hd : decode w = .reserved v) :
    presentsLawfully s = false := by
  simp only [presentsLawfully, hf, hd]

@[simp] theorem setFault_protocol_bit (flt : BitVec 2) : (setFault .protocol flt)[1] = true := by
  revert flt; decide

@[simp] theorem setFault_config_bit (flt : BitVec 2) : (setFault .config flt)[1] = flt[1] := by
  revert flt; decide

/-- A notification sets FLT[1] exactly in OFF and FAILED (R202). -/
theorem notify_protocolBit (src : Source) (f : Config → Bundle → Regs → Regs × Option Event) (s : State) :
    (notify src f s).flt[1] = (s.flt[1] || !decide (s.fsm ≠ .off ∧ s.fsm ≠ .failed)) := by
  rcases notify_cases src f s with ⟨r, hp, e⟩ | ⟨hs, e⟩ | ⟨hs, e⟩ | ⟨hs, e⟩ <;> rw [e]
  · simp [fsm_of_idle hp]
  · simp [hs]
  · simp [hs]
  · rcases hs with hs | hs <;> simp [hs]

theorem build_protocolBit (s : State) : (build s).flt[1] = s.flt[1] := by
  rcases build_cases s with ⟨_, e⟩ | ⟨_, e⟩ <;> simp [e]

/-- An operation sets FLT[1] exactly where presenting it breaks a duty. -/
theorem exec_protocolBit {i : Instr} {s t : State} (h : exec i s = .next t) :
    t.flt[1] = (s.flt[1] || !lawful s i) := by
  cases i with
  | construct =>
    rcases exec_construct_cases s with ⟨hs, e⟩ | ⟨hs, e⟩ <;> cases e.symm.trans h
    · simp [lawful, hs, build_protocolBit]
    · rcases hs with hs | hs | hs <;> simp [lawful, hs]
  | teardown => simp [lawful, (teardown_frame h).1]
  | rotClkf =>
    cases (exec_rotClkf s).symm.trans h
    cases hc : s.cfg.clkFallingDup
    · simp [lawful, hc]
    · simpa [lawful, hc] using notify_protocolBit .clkFalling sampleRotation s
  | rotClke => cases h; exact notify_protocolBit ..
  | rotDte => cases h; exact notify_protocolBit ..
  | pushF => cases h; exact notify_protocolBit ..
  | hret =>
    rcases exec_hret_cases s with ⟨r, e, hp, he⟩ | ⟨hs, he⟩ | ⟨hs, he⟩ <;> cases he.symm.trans h
    · simp [lawful, fsm_of_busy hp]
    · simp [lawful, hs]
    · rcases hs with hs | hs | hs <;> simp [lawful, hs]

/-- Settles O13: a quiet turn sets no mark, an operation sets FLT[1] exactly where it breaks a duty, a reserved word sets
REFUSED. -/
theorem dutiesKeptExactlyWithoutMark : Obligations.DutiesKeptExactlyWithoutMark := by
  intro s t h
  rcases step_cases h with hf | ⟨w, u, i, hf, hd, he⟩ | ⟨w, u, v, hf, hd, rfl⟩
  · have hu := fetch_quiet_sameBlock hf
    simp [presentsLawfully_of_quiet hf, hu.flt, hu.refused]
  · have hu := fetch_word_sameBlock hf
    have hbit := exec_protocolBit he
    simp only [hu.flt] at hbit
    rw [presentsLawfully_of_op hf hd, refused_of_exec he, hu.refused]
    exact ⟨fun hl => ⟨by simpa [hl] using hbit, rfl⟩, fun hl => .inl (by simpa [hl] using hbit)⟩
  · simp [presentsLawfully_of_reserved hf hd]

/-! ### The waiting notifications (R165, R211) -/

/-- The registered sources are the configuration's, while the block runs (R211, R242). -/
theorem registered_iff {s : State} {src : Source} :
    registered s src = true ↔ Running s ∧ Config.hasSource s.cfg src = true := by
  cases hp : s.phase <;> simp [registered, Running, State.fsm, hp]

/-- Nothing waits outside IDLE and BUSY. -/
theorem pending_eq_nil {s : State} (hs : PendingOk s) (hr : ¬ Running s) : s.pending = [] :=
  List.eq_nil_iff_forall_not_mem.2 fun src hm => hr (registered_iff.1 (hs src hm)).1

theorem pendingOk_of_nil {s : State} (h : s.pending = []) : PendingOk s := by
  simp [PendingOk, h]

/-- The invariant looks at FSM, the configuration and the list alone, and a shorter list keeps it. -/
theorem pendingOk_of_subset {s t : State} (hs : PendingOk s) (hrun : Running s → Running t) (hcfg : t.cfg = s.cfg)
    (hsub : t.pending ⊆ s.pending) : PendingOk t := by
  intro src hm
  obtain ⟨hr, hc⟩ := registered_iff.1 (hs src (hsub hm))
  exact registered_iff.2 ⟨hrun hr, hcfg ▸ hc⟩

/-- An edge adds registered sources only. -/
theorem pendingOk_pinEdge {s : State} (hs : PendingOk s) (pin : Pin) (e : Edge) : PendingOk (pinEdge pin e s) := by
  intro src hm
  rw [pinEdge_pending, List.mem_append, List.mem_filter, Bool.and_eq_true] at hm
  rcases hm with hm | ⟨_, hreg, _⟩
  · exact hs src hm
  · exact hreg

theorem pendingOk_of_quiet {s t : State} (hs : PendingOk s) (hf : fetch s = .quiet t) : PendingOk t := by
  rcases fetch_quiet_cases hf with ⟨_, rfl⟩ | ⟨pin, e, _, _, rfl⟩ | ⟨_, _, _, rfl⟩ | ⟨_, _, _, _, _, rfl⟩
  · exact hs
  · exact pendingOk_pinEdge hs pin e
  · exact hs
  · exact hs

theorem pendingOk_of_word {s u : State} {w : Opw} (hs : PendingOk s) (hf : fetch s = .word w u) : PendingOk u := by
  rcases fetch_word_cases hf with ⟨_, _, _, rfl⟩ | ⟨_, _, _, _, _, _, _, rfl⟩
  · exact hs
  · exact pendingOk_of_subset hs id rfl List.eraseIdx_subset

theorem pendingOk_dispatch {s : State} (hs : PendingOk s) (o : Option Event) (r : Regs) : PendingOk (dispatch o r s) :=
  pendingOk_of_subset hs (fun _ => by cases o <;> simp [Running]) (dispatch_cfg o r s) (by simp)

/-- An operation keeps the invariant: TEARDOWN drops what waits, CONSTRUCT changes the configuration where nothing waits, and
only sources of the configuration are held (R165, R167, R240). -/
theorem pendingOk_executed {u t : State} (hu : PendingOk u) (h : Executed u t) : PendingOk t := by
  cases h with
  | unchanged => exact hu
  | faulted => exact hu
  | held src hb hs =>
    intro src' hm
    rcases List.mem_append.1 hm with hm | hm
    · exact hu src' hm
    · cases List.mem_singleton.1 hm
      exact registered_iff.2 ⟨.inr hb, hs⟩
  | built hs =>
    have hnil : u.pending = [] := pending_eq_nil hu (not_running_of_off_or_down hs)
    exact pendingOk_of_nil (by simp [build_environment, hnil])
  | takenDown => exact pendingOk_of_nil rfl
  | returned => exact pendingOk_of_subset hu (fun _ => .inl rfl) rfl (List.Subset.refl _)
  | rotated => exact pendingOk_dispatch hu _ _
  | pushed => exact pendingOk_dispatch hu _ _

/-- Settles O60: the turn keeps the invariant, and the operation it presents does. -/
theorem pendingOkKeptByStep : Obligations.PendingOkKeptByStep := by
  intro s t hs h
  rcases step_cases h with hf | ⟨w, u, i, hf, _, he⟩ | ⟨w, u, v, hf, _, rfl⟩
  · exact pendingOk_of_quiet hs hf
  · exact pendingOk_executed (pendingOk_of_word hs hf) (exec_executed he)
  · exact (pendingOk_of_word hs hf : PendingOk u)

/-! ### BUSY until HRET or TEARDOWN (R165, R251) -/

/-- An operation that begins and ends in BUSY leaves the registers, PEV and EVH, and drops nothing that waits. -/
theorem executed_stays_busy {u t : State} (h : Executed u t) (hu : u.fsm = .busy) (ht : t.fsm = .busy) :
    t.phase = u.phase ∧ t.evh = u.evh ∧ u.pending.Sublist t.pending := by
  cases h with
  | unchanged => exact ⟨rfl, rfl, .refl _⟩
  | faulted => exact ⟨rfl, rfl, .refl _⟩
  | held => exact ⟨rfl, rfl, List.sublist_append_left ..⟩
  | built hs => rcases hs with h | h <;> cases hu.symm.trans h
  | takenDown => cases ht
  | returned => cases ht
  | rotated r hp => cases hu.symm.trans (fsm_of_idle hp)
  | pushed r hp => cases hu.symm.trans (fsm_of_idle hp)

theorem block_of_step_stays_busy {s t : State} (h : step s = .next t) (hs : s.fsm = .busy) (ht : t.fsm = .busy) :
    t.phase = s.phase ∧ t.evh = s.evh := by
  obtain ⟨u, hu, hut⟩ := step_effect h
  rw [← hu.phase, ← hu.evh]
  rcases hut with rfl | rfl | he
  · exact ⟨rfl, rfl⟩
  · exact ⟨rfl, rfl⟩
  · obtain ⟨hphase, hevh, _⟩ := executed_stays_busy he (hu.fsm.trans hs) ht
    exact ⟨hphase, hevh⟩

theorem pending_sublist_of_quiet {s t : State} (hf : fetch s = .quiet t) : s.pending.Sublist t.pending := by
  rcases fetch_quiet_cases hf with ⟨_, rfl⟩ | ⟨_, _, _, _, rfl⟩ | ⟨_, _, _, rfl⟩ | ⟨_, _, _, _, _, rfl⟩
  · exact .refl _
  · exact List.sublist_append_left ..
  · exact .refl _
  · exact .refl _

theorem perm_eraseIdx_append {α : Type} {l : List α} {k : Nat} {a : α} (h : l[k]? = some a) :
    (l.eraseIdx k ++ [a]).Perm l := by
  obtain ⟨hk, rfl⟩ := List.getElem?_eq_some_iff.1 h
  exact (List.perm_append_singleton _ _).trans (List.getElem_cons_eraseIdx_perm hk)

/-- A step that begins and ends in BUSY loses no waiting notification: one that is taken up is held again. -/
theorem pending_subperm_of_step_stays_busy {s t : State} (hok : PendingOk s) (h : step s = .next t)
    (hs : s.fsm = .busy) (ht : t.fsm = .busy) : s.pending.Subperm t.pending := by
  cases hf : fetch s with
  | quiet t' =>
    cases (step_of_quiet hf).symm.trans h
    exact (pending_sublist_of_quiet hf).subperm
  | word w u =>
    rcases fetch_word_cases hf with ⟨b, rest, hin, rfl⟩ | ⟨k, b, rest, src, hin, hk, rfl, rfl⟩
    · rcases step_cases h with hf' | ⟨w', u', i, hf', _, he⟩ | ⟨w', u', v, hf', _, rfl⟩ <;> cases hf.symm.trans hf'
      · obtain ⟨_, _, hsub⟩ := executed_stays_busy (exec_executed he) hs ht
        exact hsub.subperm
      · exact .refl _
    · obtain ⟨_, hc⟩ := registered_iff.1 (hok src (List.mem_of_getElem? hk))
      have hheld : step s = .next (hold src { s with pending := s.pending.eraseIdx k, port := b, input := rest }) :=
        (pendingNotificationTakenUp s k b rest src hin hk).trans (exec_source_of_busy hs hc)
      cases hheld.symm.trans h
      exact (perm_eraseIdx_append hk).symm.subperm

/-- With no HRET next and no TEARDOWN next a step stays in BUSY (R161). -/
theorem step_stays_busy {s t : State} (h : step s = .next t) (hs : s.fsm = .busy)
    (hret : ∀ b rest, s.input ≠ .present 0b1100#4 b :: rest)
    (hdown : ∀ b rest, s.input ≠ .present 0b0001#4 b :: rest) : t.fsm = .busy := by
  by_contra ht
  obtain ⟨w, b, rest, hin, rfl | rfl⟩ := presented_of_step_leaves_busy h hs ht
  · exact hret b rest hin
  · exact hdown b rest hin

/-- A word that no turn presents is not presented next. -/
theorem input_ne_of_all {s : State} {w : Opw} (h : s.input.all (fun u => !presents w u) = true) (b : Bundle)
    (rest : List Turn) : s.input ≠ .present w b :: rest := by
  intro hin
  simp [hin, presents] at h

theorem all_input_of_step {s t : State} {p : Turn → Bool} (h : step s = .next t) (hp : s.input.all p = true) :
    t.input.all p = true := by
  rw [List.all_eq_true] at hp ⊢
  rw [step_input h]
  exact fun u hu => hp u (List.mem_of_mem_tail hu)

/-- A hang is kept by every step but a TEARDOWN (R170). -/
theorem step_keeps_hang {s t : State} (hs : Hang s) (hdown : ∀ b rest, s.input ≠ .present 0b0001#4 b :: rest)
    (h : step s = .next t) : Hang t := by
  obtain ⟨hb, hin⟩ := hs
  exact ⟨step_stays_busy h hb (input_ne_of_all hin) hdown, all_input_of_step h hin⟩

/-- A hang with no TEARDOWN to come either. -/
def StuckBusy (s : State) : Prop := Hang s ∧ s.input.all (fun u => !presents 0b0001#4 u) = true

theorem step_keeps_stuckBusy (s t : State) (hs : StuckBusy s) (h : step s = .next t) : StuckBusy t := by
  obtain ⟨hhang, hin⟩ := hs
  exact ⟨step_keeps_hang hhang (input_ne_of_all hin) h, all_input_of_step h hin⟩

/-- What a stuck block keeps since `s`: FSM with its registers, EVH, and every notification that waits. -/
structure KeptSince (s t : State) : Prop where
  phase : t.phase = s.phase
  evh : t.evh = s.evh
  waiting : PendingOk s → PendingOk t ∧ s.pending.Subperm t.pending

theorem step_keeps_keptSince {s t u : State} (hk : KeptSince s t) (ht : t.fsm = .busy) (h : step t = .next u)
    (hu : u.fsm = .busy) : KeptSince s u := by
  obtain ⟨hphase, hevh⟩ := block_of_step_stays_busy h ht hu
  refine ⟨hphase.trans hk.phase, hevh.trans hk.evh, fun hs => ?_⟩
  obtain ⟨hok, hsub⟩ := hk.waiting hs
  exact ⟨pendingOkKeptByStep t u hok h, hsub.trans (pending_subperm_of_step_stays_busy hok h ht hu)⟩

/-- Settles O43: every step of a stuck block keeps it stuck, and keeps what `KeptSince` lists. -/
theorem busyUntilReturnOrTeardown : Obligations.BusyUntilReturnOrTeardown := by
  intro s hb hin k
  simp only [List.all_eq_true, Bool.and_eq_true] at hin
  have hstuck : StuckBusy s :=
    ⟨⟨hb, List.all_eq_true.2 fun u hu => (hin u hu).1⟩, List.all_eq_true.2 fun u hu => (hin u hu).2⟩
  have hstep : ∀ t u, StuckBusy t ∧ KeptSince s t → step t = .next u → StuckBusy u ∧ KeptSince s u := by
    rintro t u ⟨ht, hk⟩ h
    have hu := step_keeps_stuckBusy t u ht h
    exact ⟨hu, step_keeps_keptSince hk ht.1.1 h hu.1.1⟩
  obtain ⟨t, ht, _, hk⟩ := runFor_keeps hstep k s ⟨hstuck, rfl, rfl, fun hs => ⟨hs, .refl _⟩⟩
  exact ⟨t, ht, hk.phase, hk.evh, fun hs src => (hk.waiting hs).2.count_le src⟩

/-! ### The end of a run (R170) -/

theorem not_runEnded_of_hang {s : State} (h : Hang s) : ¬ RunEnded s :=
  fun ⟨_, _, hb⟩ => hb h.1

/-- A run works off its turns in order. -/
theorem runFor_input (k : Nat) : ∀ {s t : State}, runFor k s = .next t → t.input = s.input.drop k := by
  induction k with
  | zero => intro s t h; cases h; rfl
  | succ k ih =>
    intro s t h
    obtain ⟨u, hu⟩ := step_answers s
    rw [runFor_succ k hu] at h
    rw [ih h, step_input hu, List.drop_tail]

theorem step_teardown {s : State} {b : Bundle} {rest : List Turn} (hin : s.input = .present 0b0001#4 b :: rest) :
    step s = exec .teardown { s with port := b, input := rest } :=
  step_present hin rfl

/-- A TEARDOWN presented last ends the run: it drops what waits, and in a block that is not running nothing waits (R165,
R167). -/
theorem runEnded_of_last_teardown {s : State} {b : Bundle} (hok : PendingOk s)
    (hin : s.input = [.present 0b0001#4 b]) : ∃ t, step s = .next t ∧ RunEnded t := by
  rw [step_teardown hin, exec_teardown]
  refine ⟨_, rfl, ?_⟩
  split_ifs with hr
  · exact ⟨rfl, rfl, by simp⟩
  · exact ⟨rfl, pending_eq_nil hok hr, fun hb => hr (.inr hb)⟩

/-- Nothing is presented after the end of a run. -/
theorem runFor_of_input_nil {s : State} (h : s.input = []) (k : Nat) : runFor k s = .next s := by
  induction k with
  | zero => rfl
  | succ k ih => rw [runFor_succ k (step_of_quiet (fetch_nil h)), ih]

/-- Settles O11: a hang is kept by every step but a TEARDOWN, which takes the block down; after its turns a run has one
TEARDOWN left, which ends it; and with no turn left nothing happens. -/
theorem runEndedByTeardownOrHang : Obligations.RunEndedByTeardownOrHang := by
  refine ⟨fun s hs hdown => ?_, fun s hs hin k => ?_, fun s b rest hs hin => ?_, fun s b hok => ?_,
    fun s hs => runFor_of_input_nil hs.1⟩
  · obtain ⟨t, ht⟩ := step_answers s
    exact ⟨t, ht, step_keeps_hang hs hdown ht⟩
  · obtain ⟨t, ht, hhang, _⟩ := runFor_keeps step_keeps_stuckBusy k s ⟨hs, hin⟩
    exact ⟨t, ht, hhang, not_runEnded_of_hang hhang⟩
  · refine ⟨_, (step_teardown hin).trans (exec_teardown_of_running (.inr hs.1)), rfl, rfl, fun h => ?_⟩
    cases h.1
  · obtain ⟨t, ht, htok⟩ := runFor_keeps pendingOkKeptByStep s.input.length
      { s with input := s.input ++ [.present 0b0001#4 b] } hok
    obtain ⟨u, hu, hend⟩ := runEnded_of_last_teardown htok ((runFor_input _ ht).trans List.drop_left)
    exact ⟨u, (runFor_add _ 1 ht).trans ((runFor_one t).trans hu), hend⟩

end Sys2Proof.Proofs
end

section
/-! Proofs of the statements about exceptions (spec/60_exceptions.md): the reserved words, the pin edges, CONSTRUCT in every
state, the causes of the PROTOCOL fault, and the marks one step sets. -/

namespace Sys2Proof.Proofs

open Sys2Proof.Machine Sys2Proof.Safety

/-! ### Steps that execute no operation (R203, R225) -/

/-- Settles O5: the word is fetched with its bundle, and the decoder gives it no operation. -/
theorem reservedWordOnlySetsRefused : Obligations.ReservedWordOnlySetsRefused :=
  fun _ w _ _ hin hw => step_of_reserved (fetch_present hin) ((mem_reservedWords_iff w).1 hw)

/-- Settles O6: with no turn left the turn is quiet and leaves the state. -/
theorem nothingPresentedChangesNothing : Obligations.NothingPresentedChangesNothing :=
  fun _ hin => step_of_quiet (fetch_nil hin)

/-- Settles O9: a step answers, and moves past one turn. -/
theorem everyStepAnswersNext : Obligations.EveryStepAnswersNext := by
  intro s
  obtain ⟨t, ht⟩ := step_answers s
  exact ⟨t, ht, step_input ht⟩

/-! ### The edges of a pin (R210, R211) -/

/-- A source watches every edge of its own pin, or the falling ones alone (R210). -/
theorem watches_iff {src : Source} {pin : Pin} {e : Edge} :
    Source.watches src pin e = true ↔ pin = Source.pin src ∧ (Source.edgeKind src = .falling → e = .falling) := by
  have hfires : EdgeKind.fires (Source.edgeKind src) e = true ↔ (Source.edgeKind src = .falling → e = .falling) := by
    cases Source.edgeKind src <;> cases e <;> simp [EdgeKind.fires]
  rw [Source.watches, Bool.and_eq_true, decide_eq_true_iff, hfires, eq_comm]

theorem nodup_allSources : allSources.Nodup := by decide

theorem mem_allSources (src : Source) : src ∈ allSources := by
  cases src <;> decide

/-- The registrations that an edge fires (R210, R211). -/
theorem fired_iff {s : State} {src : Source} {pin : Pin} {e : Edge} :
    (registered s src && Source.watches src pin e) = true ↔
      Running s ∧ pin = Source.pin src ∧ (Source.edgeKind src = .falling → e = .falling) ∧
        Config.hasSource s.cfg src = true := by
  rw [Bool.and_eq_true, registered_iff, watches_iff]
  tauto

/-- An edge makes one more notification of a source wait exactly when it fires its registration (R211): the table of R210
names each source once. -/
theorem count_pending_pinEdge (pin : Pin) (e : Edge) (s : State) (src : Source) :
    (pinEdge pin e s).pending.count src =
      s.pending.count src +
        if Running s ∧ pin = Source.pin src ∧ (Source.edgeKind src = .falling → e = .falling) ∧
          Config.hasSource s.cfg src = true then 1 else 0 := by
  rw [pinEdge_pending, List.count_append, (nodup_allSources.filter _).count]
  simp only [List.mem_filter, mem_allSources, true_and, fired_iff]

/-- Settles O7: the turn is quiet, and the rule of the edge is read off for each of the four sources. -/
theorem edgeMakesOnePendingPerRegistration : Obligations.EdgeMakesOnePendingPerRegistration := by
  intro s pin e rest hin
  refine ⟨(pinEdge pin e s).pending, step_of_quiet (fetch_edge hin), ?_, ?_, ?_, ?_⟩ <;>
    rw [count_pending_pinEdge] <;> simp [Source.pin, Source.edgeKind, Config.hasSource]

/-- Settles O59: at power-on nothing waits. -/
theorem pendingOkAtReset : Obligations.PendingOkAtReset :=
  pendingOk_of_nil rfl

/-! ### CONSTRUCT and the PROTOCOL fault (R201, R202) -/

/-- A constructed or failed block has to be taken down first: CONSTRUCT in it is the PROTOCOL fault (R202). -/
theorem exec_construct_faults {s : State} (h : s.fsm = .idle ∨ s.fsm = .busy ∨ s.fsm = .failed) :
    exec .construct s = .next (raise .protocol s) := by
  rw [exec_construct, if_neg]
  rcases h with h | h | h <;> simp [h]

/-- Settles O16: building with K = 1, building with K = 0, and the PROTOCOL fault. -/
theorem constructInEveryState : Obligations.ConstructInEveryState := by
  refine ⟨fun s hs hk => ?_, fun s hs hk => ?_, fun s hs => exec_construct_faults hs⟩
  · rw [exec_construct, if_pos hs, build_of_success hk]
    rfl
  · rw [exec_construct, if_pos hs, build_of_failure hk]
    rfl

/-- A notification with no block to take it is the PROTOCOL fault (R202). -/
theorem notify_faults (src : Source) (f : Config → Bundle → Regs → Regs × Option Event) {s : State}
    (h : s.fsm = .off ∨ s.fsm = .failed) : notify src f s = raise .protocol s := by
  rcases h with h | h
  · exact notify_of_off _ _ (fsm_eq_off.1 h)
  · exact notify_of_failed _ _ (fsm_eq_failed.1 h)

/-- The operations of the notification sources, and HRET, in a block that is not constructed (R202). -/
theorem exec_faults_of_off_or_failed {i : Instr} {s : State}
    (hi : i ∈ [Instr.rotClkf, .rotClke, .rotDte, .pushF, .hret]) (h : s.fsm = .off ∨ s.fsm = .failed) :
    exec i s = .next (raise .protocol s) := by
  simp only [List.mem_cons, List.not_mem_nil, or_false] at hi
  rcases hi with rfl | rfl | rfl | rfl | rfl
  · rw [exec_rotClkf, notify_faults _ _ h, ite_self]
  · rw [exec_rotClke, notify_faults _ _ h]
  · rw [exec_rotDte, notify_faults _ _ h]
  · rw [exec_pushF, notify_faults _ _ h]
  · exact hretInEveryState.2.2 s (h.imp_right .inr)

/-- Without its registration ROT.CLKF is the PROTOCOL fault in every state (R81, R202). -/
theorem exec_rotClkf_faults {s : State} (h : s.cfg.clkFallingDup = false) :
    exec .rotClkf s = .next (raise .protocol s) := by
  simp [exec_rotClkf, h]

/-- Settles O46: each cause raises the PROTOCOL fault, which sets its one bit of FLT. -/
theorem protocolFaultSetsOnlyItsBit : Obligations.ProtocolFaultSetsOnlyItsBit := by
  obtain ⟨_, _, hretFaults⟩ := hretInEveryState
  exact ⟨fun _ _ hi h => exec_faults_of_off_or_failed hi h, fun s h => hretFaults s (.inr (.inl h)),
    fun _ h => exec_construct_faults h, fun _ h => exec_rotClkf_faults h⟩

/-! ### The marks of one step (R213) -/

/-- Settles O49: a refusal leaves FLT; every other step leaves REFUSED and sets at most one bit of FLT. -/
theorem atMostOneMarkPerStep : Obligations.AtMostOneMarkPerStep := by
  intro s t h
  rcases step_cases h with hf | ⟨w, u, i, hf, _, he⟩ | ⟨w, u, v, hf, _, rfl⟩
  · have hu := fetch_quiet_sameBlock hf
    exact .inl ⟨hu.flt, hu.refused⟩
  · have hr : t.refused = s.refused := (refused_of_exec he).trans (fetch_word_sameBlock hf).refused
    rcases step_flt h with hflt | ⟨k, hflt⟩
    · exact .inl ⟨hflt, hr⟩
    · cases k with
      | config => exact .inr (.inl ⟨hflt, hr⟩)
      | protocol => exact .inr (.inr (.inl ⟨hflt, hr⟩))
  · exact .inr (.inr (.inr ⟨(fetch_word_sameBlock hf).flt, rfl⟩))

end Sys2Proof.Proofs
end

section
/-! Proofs of the statements about reset and hazards (spec/70_reset_and_hazards.md): a run works off its turns. -/

namespace Sys2Proof.Proofs

open Sys2Proof.Machine Sys2Proof.Safety

/-- A run of any length answers, as each of its steps does (R200, R257). -/
theorem runFor_answers (k : Nat) (s : State) : ∃ t, runFor k s = .next t := by
  obtain ⟨t, ht, _⟩ := runFor_keeps (P := fun _ => True) (fun _ _ _ _ => trivial) k s trivial
  exact ⟨t, ht⟩

/-- Settles O10: a run answers, and of its turns it leaves those past its length. -/
theorem turnsAreWorkedOffInAsManySteps : Obligations.TurnsAreWorkedOffInAsManySteps := by
  intro s
  obtain ⟨t, ht⟩ := runFor_answers s.input.length s
  refine ⟨t, ht, ?_⟩
  calc t.input
    _ = s.input.drop s.input.length := runFor_input _ ht
    _ = [] := List.drop_length

end Sys2Proof.Proofs
end

section
/-! Proofs of the statements about the machine's table words (spec/30_encoding.md): a placed word is the next operation run. -/

namespace Sys2Proof.Proofs

open Sys2Proof.Machine

/-- A table word reads as an operation exactly where the decoder gives its OPW that operation (R71). -/
theorem decodeTableWord_eq_some_iff {nbits x : Nat} {i : Instr} :
    decodeTableWord nbits x = some i ↔ decode (BitVec.ofNat 4 (x % 2 ^ nbits)) = .op i := by
  refine ⟨fun h => ?_, decodeTableWord_of_decode⟩
  unfold decodeTableWord at h
  split at h
  next hd => rw [hd, Option.some.inj h]
  next => cases h

/-- A placed table word is fetched as its OPW, and the turn that presents it leaves the state it was placed in. -/
theorem fetch_withFetchWord (s : State) (nbits x : Nat) :
    fetch (s.withFetchWord nbits x) = .word (BitVec.ofNat 4 (x % 2 ^ nbits)) s :=
  fetch_present rfl

/-- Settles O4: the placed word is fetched in the very state it was placed in, and its OPW decodes to the operation. -/
theorem fetchWordRunsNext : Obligations.FetchWordRunsNext :=
  fun s nbits x _ h => step_of_word (fetch_withFetchWord s nbits x) (decodeTableWord_eq_some_iff.1 h)

end Sys2Proof.Proofs
end
